-- ==== Sys2Proof/Word.lean ====
section
/-! DEFINITION. The fixed-width words of the block and the four access widths. -/

namespace Sys2Proof

/-- A byte (00_scope.md R10). -/
abbrev Byte := BitVec 8
/-- A half of the `SEQ` byte: `masterSeq`, `slaveSeq`, an opcode (30_encoding.md R95). -/
abbrev Nibble := BitVec 4
/-- A 16-bit quantity: a period, a length, the `e` of `TICK` (43_dispatch_and_reply.md R180). -/
abbrev Half := BitVec 16
/-- A 32-bit quantity: the passkey (10_state.md R36). -/
abbrev Word := BitVec 32
/-- A device address; with `ADDR_W = 2` its upper 16 bits are 0 (notes/assumptions/11.md). -/
abbrev Addr := BitVec 32

/-- The data sizes 1, 2, 4, 8 of 00_scope.md R8 (`SIZES`; 8 is legal only with `SUPPORT_64`). -/
inductive Width where
  | w1 | w2 | w4 | w8
deriving DecidableEq, Repr

/-- The byte count a size stands for (30_encoding.md R97). -/
def Width.bytes : Width → Nat
  | .w1 => 1
  | .w2 => 2
  | .w4 => 4
  | .w8 => 8

end Sys2Proof
end

