-- ==== Sys2Proof/Config.lean ====
section
/-! DEFINITION. The parameters of 00_scope.md R8, and the one free value of the model. -/

namespace Sys2Proof

/-- `ADDR_W`, the bytes in an address: 2 or 4 (00_scope.md R8). -/
inductive AddrWidth where
  | two | four
deriving DecidableEq, Repr

/-- The number of bytes of an address. -/
def AddrWidth.bytes : AddrWidth → Nat
  | .two => 2
  | .four => 4

/-- Every parameter of 00_scope.md R8. `bypass` says whether a bypass capability is registered; what a
registered one answers is an input (44_commands.md R225; notes/assumptions/6.md). -/
structure Config where
  addrW : AddrWidth
  support64 : Bool
  rxCap : Nat
  maxPayload : Nat
  txCap : Nat
  nTargets : Nat
  rxTimeout : Nat
  logWatchdogLimit : Half
  logPeriodDefault : Half
  passkey : Word
  versionAddr : Addr
  versionLen : Half
  crcTable : List Byte
  bypass : Bool
deriving DecidableEq, Repr

/-- What one call of a bypass capability does (44_commands.md R225): its status, the location and
length of its reply, and the bytes it leaves in device memory (93_implementation_defined.md U15, U16). -/
structure BypassAnswer where
  success : Bool
  address : Addr
  length : Half
  stores : List (Addr × Byte)
deriving DecidableEq, Repr, Inhabited

/-- The answer of a registered bypass capability when the environment's list has none left: a free
value, one for each count and payload (44_commands.md R225: "a model takes its answer as an
oracle's"; notes/assumptions/6.md). -/
opaque Config.freeBypass : Nat → List Byte → BypassAnswer

end Sys2Proof
end

