-- ==== Sys2Proof/Machine/Crc.lean ====
section
/-! DEFINITION. The CRC-8 checker (40_crc8.md R131 to R134). -/

namespace Sys2Proof.Machine

/-- One byte of the CRC: exclusive-or, then one table lookup (40_crc8.md R131). The index is below
256, so the default of a missing entry is reached only by a table shorter than R132's. -/
def crcStep (table : List Byte) (c b : Byte) : Byte := table.getD (c ^^^ b).toNat 0#8

/-- `crc8(s)` (40_crc8.md R131): initial value 0, no final exclusive-or. -/
def crc8 (table : List Byte) (s : List Byte) : Byte := s.foldl (crcStep table) 0#8

/-- One of the eight shifts of the table's generation (40_crc8.md R132). -/
def crcShift (poly c : Byte) : Byte :=
  if c.getLsbD 7 then (c <<< 1) ^^^ poly else c <<< 1

/-- The `n`-fold shift. -/
def crcShifts (poly : Byte) : Nat → Byte → Byte
  | 0, c => c
  | n + 1, c => crcShifts poly n (crcShift poly c)

/-- The table that 40_crc8.md R132 generates from a polynomial, most significant bit first. -/
def crcTableOf (poly : Byte) : List Byte :=
  (List.range 256).map fun i => crcShifts poly 8 (BitVec.ofNat 8 i)

end Sys2Proof.Machine
end

