-- ==== Sys2Proof/Machine/Bytes.lean ====
section
/-! DEFINITION. Little-endian assembly (00_scope.md R11), the four special wire bytes (30_encoding.md
R91) and the `SEQ` byte (30_encoding.md R95). -/

namespace Sys2Proof.Machine

/-- `LE(s)` of 00_scope.md R11. -/
def leNat : List Byte → Nat
  | [] => 0
  | b :: bs => b.toNat + 256 * leNat bs

/-- `LEbytes_n(v)` of 00_scope.md R11. -/
def leBytes : Nat → Nat → List Byte
  | 0, _ => []
  | n + 1, v => BitVec.ofNat 8 v :: leBytes n (v / 256)

/-- FEND, the frame delimiter (30_encoding.md R91). -/
def fendByte : Byte := 0xC0#8
/-- FESC, the escape (30_encoding.md R91). -/
def fescByte : Byte := 0xDB#8
/-- TFEND, after FESC the code of FEND (30_encoding.md R91). -/
def tfendByte : Byte := 0xDC#8
/-- TFESC, after FESC the code of FESC (30_encoding.md R91). -/
def tfescByte : Byte := 0xDD#8

/-- The `SEQ` byte of its upper and lower half (30_encoding.md R95; 43_dispatch_and_reply.md R196 (b):
no carry between the halves). -/
def seqByte (upper lower : Nibble) : Byte := upper ++ lower

/-- `SEQ[7:4]`, the master's sequence nibble (30_encoding.md R95). -/
def seqUpper (seq : Byte) : Nibble := seq.extractLsb' 4 4

/-- `SEQ[3:0]`, of a request the opcode (30_encoding.md R95). -/
def seqLower (seq : Byte) : Nibble := seq.extractLsb' 0 4

end Sys2Proof.Machine
end

