-- ==== Sys2Proof/Syntax.lean ====
section
/-! DEFINITION. The instructions: one constructor for each row of spec/opcode_table.json. -/

namespace Sys2Proof

/-- The operands of a command whose payload has a fixed layout: the fields of the layout, or a payload
whose length the opcode does not take, kept as received. The second form runs too and ends in Error
(60_exceptions.md R264; notes/assumptions/15.md). -/
inductive Operands (α : Type) where
  | fields (a : α)
  | badLength (payload : List Byte)
deriving DecidableEq, Repr

/-- The fields of a WRITE payload (30_encoding.md R101). `width` is what the length selects
(`WRITE_SIZE`, R102); `sizeByte` is the declared size, which may differ. -/
structure WriteFields where
  width : Width
  sizeByte : Byte
  address : Addr
  data : List Byte
deriving DecidableEq, Repr

/-- One entry of a LOGCFG payload (30_encoding.md R103); the size byte is as received. -/
structure CfgEntry where
  sizeByte : Byte
  address : Addr
deriving DecidableEq, Repr

/-- The fields of a LOGCFG payload (30_encoding.md R103). -/
structure CfgFields where
  flags : Byte
  entries : List CfgEntry
deriving DecidableEq, Repr

/-- The fields of a DUMP payload (30_encoding.md R106). -/
structure DumpFields where
  address : Addr
  length : Half
deriving DecidableEq, Repr

/-- The 22 rows of spec/opcode_table.json. In a request the first field `m` is `SEQ[7:4]`
(30_encoding.md R95). `reply` and `telemetry` are the two frames the block originates (R108, R109) and
have no operand. The last four are the special bytes of the wire (R91). -/
inductive Instr where
  /-- 44_commands.md R210 -/
  | logstart (m : Nibble) (payload : List Byte)
  /-- 44_commands.md R211 -/
  | logstop (m : Nibble) (payload : List Byte)
  /-- 44_commands.md R212 -/
  | logperiod (m : Nibble) (ops : Operands Half)
  /-- 44_commands.md R213 -/
  | write (m : Nibble) (ops : Operands WriteFields)
  /-- 44_commands.md R220 -/
  | logcfg (m : Nibble) (ops : Operands CfgFields)
  /-- 44_commands.md R215 -/
  | auth (m : Nibble) (ops : Operands Word)
  /-- 44_commands.md R223 -/
  | dump (m : Nibble) (ops : Operands DumpFields)
  /-- 44_commands.md R225 -/
  | bypass (m : Nibble) (payload : List Byte)
  /-- 44_commands.md R227, opcode 0 -/
  | reserved0 (m : Nibble) (payload : List Byte)
  /-- 44_commands.md R227, opcode 9 -/
  | reserved9 (m : Nibble) (payload : List Byte)
  /-- 44_commands.md R227, opcode 10 -/
  | reservedA (m : Nibble) (payload : List Byte)
  /-- 44_commands.md R227, opcode 11 -/
  | reservedB (m : Nibble) (payload : List Byte)
  /-- 44_commands.md R227, opcode 12 -/
  | reservedC (m : Nibble) (payload : List Byte)
  /-- 44_commands.md R227, opcode 13 -/
  | reservedD (m : Nibble) (payload : List Byte)
  /-- 44_commands.md R227, opcode 14 -/
  | reservedE (m : Nibble) (payload : List Byte)
  /-- 44_commands.md R227, opcode 15 -/
  | reservedF (m : Nibble) (payload : List Byte)
  /-- 43_dispatch_and_reply.md R192 to R195 -/
  | reply
  /-- 45_log_scheduler.md R244 to R247 -/
  | telemetry
  /-- 30_encoding.md R91, byte 0xC0 -/
  | fend
  /-- 30_encoding.md R91, byte 0xDB -/
  | fesc
  /-- 30_encoding.md R91, byte 0xDC -/
  | tfend
  /-- 30_encoding.md R91, byte 0xDD -/
  | tfesc
deriving DecidableEq, Repr

end Sys2Proof
end

