-- ==== Sys2Proof/Machine/Operands.lean ====
section
/-! DEFINITION. The request payloads of 30_encoding.md R99 to R107: the two length tables, and for each
opcode the reading of a payload and its layout. -/

namespace Sys2Proof.Machine

/-- The printed rows of the table `WRITE_SIZE` (30_encoding.md R102), before `SUPPORT_64` is looked at. -/
def writeSizeRows : AddrWidth → List (Nat × Width)
  | .two => [(4, .w1), (5, .w2), (7, .w4), (11, .w8)]
  | .four => [(6, .w1), (7, .w2), (9, .w4), (13, .w8)]

/-- `WRITE_SIZE(L)` (30_encoding.md R102); `none` is "unsupported". -/
def writeSize (c : Config) (len : Nat) : Option Width :=
  ((writeSizeRows c.addrW).lookup len).filter (sizeAllowed c)

/-- `CFG_COUNT(L)` (30_encoding.md R104); `none` is "invalid". -/
def cfgCount (c : Config) (len : Nat) : Option Nat :=
  if 1 ≤ len ∧ (len - 1) % (1 + c.addrW.bytes) = 0 then some ((len - 1) / (1 + c.addrW.bytes))
  else none

/-- The size a size byte names: its value is the byte count, and it must be in `SIZES`
(30_encoding.md R97). -/
def widthOfByte (c : Config) (z : Byte) : Option Width :=
  ([Width.w1, .w2, .w4, .w8].find? fun w => decide (w.bytes = z.toNat)).filter (sizeAllowed c)

/-- An `address` field: the first `ADDR_W` bytes, little-endian (30_encoding.md R97). -/
def readAddr (c : Config) (bs : List Byte) : Addr := BitVec.ofNat 32 (leNat (bs.take c.addrW.bytes))

/-- The `ADDR_W` bytes of an address, little-endian (30_encoding.md R97). -/
def addrBytes (c : Config) (a : Addr) : List Byte := leBytes c.addrW.bytes a.toNat

/-- LOGPERIOD's payload (30_encoding.md R100). -/
def readPeriod (p : List Byte) : Operands Half :=
  if p.length = 2 then .fields (BitVec.ofNat 16 (leNat p)) else .badLength p

/-- WRITE's payload (30_encoding.md R101, R102). -/
def readWrite (c : Config) (p : List Byte) : Operands WriteFields :=
  match writeSize c p.length with
  | some w => .fields ⟨w, p.getD 0 0#8, readAddr c (p.drop 1), p.drop (1 + c.addrW.bytes)⟩
  | none => .badLength p

/-- The next `n` entries of a LOGCFG payload (30_encoding.md R103). -/
def readEntries (c : Config) : Nat → List Byte → List CfgEntry
  | 0, _ => []
  | n + 1, bs => ⟨bs.getD 0 0#8, readAddr c (bs.drop 1)⟩ :: readEntries c n (bs.drop (1 + c.addrW.bytes))

/-- LOGCFG's payload (30_encoding.md R103, R104). -/
def readCfg (c : Config) (p : List Byte) : Operands CfgFields :=
  match cfgCount c p.length with
  | some n => .fields ⟨p.getD 0 0#8, readEntries c n (p.drop 1)⟩
  | none => .badLength p

/-- AUTH's payload (30_encoding.md R105). -/
def readAuth (p : List Byte) : Operands Word :=
  if p.length = 4 then .fields (BitVec.ofNat 32 (leNat p)) else .badLength p

/-- DUMP's payload (30_encoding.md R106). -/
def readDump (c : Config) (p : List Byte) : Operands DumpFields :=
  if p.length = c.addrW.bytes + 2 then
    .fields ⟨readAddr c p, BitVec.ofNat 16 (leNat (p.drop c.addrW.bytes))⟩
  else .badLength p

/-- The payload of LOGPERIOD's operands. -/
def periodPayload : Operands Half → List Byte
  | .fields period => leBytes 2 period.toNat
  | .badLength p => p

/-- The payload of WRITE's operands. -/
def writePayload (c : Config) : Operands WriteFields → List Byte
  | .fields f => f.sizeByte :: (addrBytes c f.address ++ f.data)
  | .badLength p => p

/-- The bytes of LOGCFG entries. -/
def entriesBytes (c : Config) : List CfgEntry → List Byte
  | [] => []
  | e :: es => e.sizeByte :: (addrBytes c e.address ++ entriesBytes c es)

/-- The payload of LOGCFG's operands. -/
def cfgPayload (c : Config) : Operands CfgFields → List Byte
  | .fields f => f.flags :: entriesBytes c f.entries
  | .badLength p => p

/-- The payload of AUTH's operands. -/
def authPayload : Operands Word → List Byte
  | .fields key => leBytes 4 key.toNat
  | .badLength p => p

/-- The payload of DUMP's operands. -/
def dumpPayload (c : Config) : Operands DumpFields → List Byte
  | .fields f => addrBytes c f.address ++ leBytes 2 f.length.toNat
  | .badLength p => p

/-- The start flag of a LOGCFG flags byte, bit 4 (30_encoding.md R103). -/
def cfgStart (flags : Byte) : Bool := flags.getLsbD 4

/-- The end flag of a LOGCFG flags byte, bit 5 (30_encoding.md R103). -/
def cfgEnd (flags : Byte) : Bool := flags.getLsbD 5

end Sys2Proof.Machine
end

