-- ==== Sys2Proof/WellFormed.lean ====
section
/-! DEFINITION. Which instructions a host can send: the operands fit their fields, and a payload kept as
`badLength` is of a length its opcode does not take. -/

namespace Sys2Proof

open Machine

/-- Operands fit: the fields pass their check, or the payload's length is refused. -/
def Operands.ok {α : Type} (fieldsOk : α → Bool) (lengthRefused : Nat → Bool) : Operands α → Bool
  | .fields a => fieldsOk a
  | .badLength p => lengthRefused p.length

/-- The payload of a request in wire order (30_encoding.md R99 to R107); empty for the other rows. -/
def Instr.payload (c : Config) : Instr → List Byte
  | .logstart _ p => p
  | .logstop _ p => p
  | .logperiod _ o => periodPayload o
  | .write _ o => writePayload c o
  | .logcfg _ o => cfgPayload c o
  | .auth _ o => authPayload o
  | .dump _ o => dumpPayload c o
  | .bypass _ p => p
  | .reserved0 _ p => p
  | .reserved9 _ p => p
  | .reservedA _ p => p
  | .reservedB _ p => p
  | .reservedC _ p => p
  | .reservedD _ p => p
  | .reservedE _ p => p
  | .reservedF _ p => p
  | .reply => []
  | .telemetry => []
  | .fend => []
  | .fesc => []
  | .tfend => []
  | .tfesc => []

/-- The operands fit the fields of 30_encoding.md R99 to R107. -/
def Instr.operandsOk (c : Config) : Instr → Bool
  | .logstart _ _ => true
  | .logstop _ _ => true
  | .logperiod _ o => o.ok (fun _ => true) fun n => decide (n ≠ 2)
  | .write _ o =>
      o.ok (fun f => sizeAllowed c f.width && decide (f.data.length = f.width.bytes) && addrFits c f.address)
        fun n => (writeSize c n).isNone
  | .logcfg _ o => o.ok (fun f => f.entries.all fun e => addrFits c e.address) fun n => (cfgCount c n).isNone
  | .auth _ o => o.ok (fun _ => true) fun n => decide (n ≠ 4)
  | .dump _ o => o.ok (fun f => addrFits c f.address) fun n => decide (n ≠ c.addrW.bytes + 2)
  | .bypass _ _ => true
  | .reserved0 _ _ => true
  | .reserved9 _ _ => true
  | .reservedA _ _ => true
  | .reservedB _ _ => true
  | .reservedC _ _ => true
  | .reservedD _ _ => true
  | .reservedE _ _ => true
  | .reservedF _ _ => true
  | .reply => true
  | .telemetry => true
  | .fend => true
  | .fesc => true
  | .tfend => true
  | .tfesc => true

/-- Well-formed: the operands fit, and the body of the request, `SEQ`, payload and CRC, is one the
receiver can complete, at most `RX_CAP − 1` bytes (30_encoding.md R93). -/
def Instr.wellFormed (c : Config) (i : Instr) : Bool :=
  i.operandsOk c && decide ((i.payload c).length + 2 < c.rxCap)

end Sys2Proof
end

