-- ==== Sys2Proof/Decode.lean ====
section
/-! DEFINITION. The decoder, total on any bytes and rejecting by name, and after it the encoder
(30_encoding.md R90 to R112). -/

namespace Sys2Proof

open Machine

/-- Why bytes are no instruction. -/
inductive Reject where
  /-- a body of fewer than 2 bytes (43_dispatch_and_reply.md R182) -/
  | shortBody
  /-- a body whose CRC is not 0 (43_dispatch_and_reply.md R183) -/
  | crcMismatch
  /-- a wire byte that is none of the four special ones (30_encoding.md R91) -/
  | ordinaryByte
  /-- at the wire layer, not exactly one byte -/
  | notOneByte
deriving DecidableEq, Repr

/-- The two layers of the encoding (30_encoding.md, opening): raw bytes of the wire, and the un-escaped
body of a frame. -/
inductive Layer where
  | wire | body
deriving DecidableEq, Repr

/-- One of the four special bytes (30_encoding.md R91). -/
def decodeWireByte (b : Byte) : Option Instr :=
  if b = fendByte then some .fend
  else if b = fescByte then some .fesc
  else if b = tfendByte then some .tfend
  else if b = tfescByte then some .tfesc
  else none

/-- The request of a `SEQ` byte and a payload: the opcode is `SEQ[3:0]` (30_encoding.md R98,
43_dispatch_and_reply.md R185). -/
def decodeRequest (c : Config) (seq : Byte) (p : List Byte) : Instr :=
  match (seqLower seq).toNat with
  | 0 => .reserved0 (seqUpper seq) p
  | 1 => .logstart (seqUpper seq) p
  | 2 => .logstop (seqUpper seq) p
  | 3 => .logperiod (seqUpper seq) (readPeriod p)
  | 4 => .write (seqUpper seq) (readWrite c p)
  | 5 => .logcfg (seqUpper seq) (readCfg c p)
  | 6 => .auth (seqUpper seq) (readAuth p)
  | 7 => .dump (seqUpper seq) (readDump c p)
  | 8 => .bypass (seqUpper seq) p
  | 9 => .reserved9 (seqUpper seq) p
  | 10 => .reservedA (seqUpper seq) p
  | 11 => .reservedB (seqUpper seq) p
  | 12 => .reservedC (seqUpper seq) p
  | 13 => .reservedD (seqUpper seq) p
  | 14 => .reservedE (seqUpper seq) p
  | _ => .reservedF (seqUpper seq) p

/-- The request in a completed body, in the order of checks of 43_dispatch_and_reply.md R191: length
(R182), CRC (R183), then the opcode. The payload is what stands between `SEQ` and CRC (30_encoding.md
R94). -/
def decodeBody (c : Config) (body : List Byte) : Except Reject Instr :=
  if body.length < 2 then .error .shortBody
  else if crc8 c.crcTable body ≠ 0#8 then .error .crcMismatch
  else .ok (decodeRequest c (body.getD 0 0#8) (body.drop 1).dropLast)

/-- The decoder of both layers. -/
def decode (c : Config) (layer : Layer) (bytes : List Byte) : Except Reject Instr :=
  match layer with
  | .body => decodeBody c bytes
  | .wire =>
    match bytes with
    | [b] => match decodeWireByte b with
      | some i => .ok i
      | none => .error .ordinaryByte
    | _ => .error .notOneByte

/-- The opcode of a request (30_encoding.md R98); `none` for the rows that are no request. -/
def Instr.opcode : Instr → Option Nibble
  | .logstart _ _ => some 0x1#4
  | .logstop _ _ => some 0x2#4
  | .logperiod _ _ => some 0x3#4
  | .write _ _ => some 0x4#4
  | .logcfg _ _ => some 0x5#4
  | .auth _ _ => some 0x6#4
  | .dump _ _ => some 0x7#4
  | .bypass _ _ => some 0x8#4
  | .reserved0 _ _ => some 0x0#4
  | .reserved9 _ _ => some 0x9#4
  | .reservedA _ _ => some 0xA#4
  | .reservedB _ _ => some 0xB#4
  | .reservedC _ _ => some 0xC#4
  | .reservedD _ _ => some 0xD#4
  | .reservedE _ _ => some 0xE#4
  | .reservedF _ _ => some 0xF#4
  | .reply => none
  | .telemetry => none
  | .fend => none
  | .fesc => none
  | .tfend => none
  | .tfesc => none

/-- `masterSeqEcho` of a request (30_encoding.md R95); 0 for the rows that carry none. -/
def Instr.masterSeq : Instr → Nibble
  | .logstart m _ => m
  | .logstop m _ => m
  | .logperiod m _ => m
  | .write m _ => m
  | .logcfg m _ => m
  | .auth m _ => m
  | .dump m _ => m
  | .bypass m _ => m
  | .reserved0 m _ => m
  | .reserved9 m _ => m
  | .reservedA m _ => m
  | .reservedB m _ => m
  | .reservedC m _ => m
  | .reservedD m _ => m
  | .reservedE m _ => m
  | .reservedF m _ => m
  | .reply => 0
  | .telemetry => 0
  | .fend => 0
  | .fesc => 0
  | .tfend => 0
  | .tfesc => 0

/-- The layer at which an instruction reaches the block; `none` for the two frames the block itself
originates (30_encoding.md R108, R109), which no bytes from the host encode. -/
def Instr.layer : Instr → Option Layer
  | .logstart _ _ => some .body
  | .logstop _ _ => some .body
  | .logperiod _ _ => some .body
  | .write _ _ => some .body
  | .logcfg _ _ => some .body
  | .auth _ _ => some .body
  | .dump _ _ => some .body
  | .bypass _ _ => some .body
  | .reserved0 _ _ => some .body
  | .reserved9 _ _ => some .body
  | .reservedA _ _ => some .body
  | .reservedB _ _ => some .body
  | .reservedC _ _ => some .body
  | .reservedD _ _ => some .body
  | .reservedE _ _ => some .body
  | .reservedF _ _ => some .body
  | .reply => none
  | .telemetry => none
  | .fend => some .wire
  | .fesc => some .wire
  | .tfend => some .wire
  | .tfesc => some .wire

/-- A body of its `SEQ` byte and payload: the CRC over both is appended (30_encoding.md R94, R96). -/
def frameBody (c : Config) (seq : Byte) (p : List Byte) : List Byte :=
  seq :: p ++ [crc8 c.crcTable (seq :: p)]

/-- The body of a request (30_encoding.md R94 to R107). -/
def encodeRequest (c : Config) (op : Nibble) (i : Instr) : List Byte :=
  frameBody c (seqByte i.masterSeq op) (i.payload c)

/-- The bytes of an instruction at its layer: the body of a request, the one byte of a wire row, and
none for the two frames the block originates. -/
def encode (c : Config) (i : Instr) : List Byte :=
  match i with
  | .logstart _ _ => encodeRequest c 0x1#4 i
  | .logstop _ _ => encodeRequest c 0x2#4 i
  | .logperiod _ _ => encodeRequest c 0x3#4 i
  | .write _ _ => encodeRequest c 0x4#4 i
  | .logcfg _ _ => encodeRequest c 0x5#4 i
  | .auth _ _ => encodeRequest c 0x6#4 i
  | .dump _ _ => encodeRequest c 0x7#4 i
  | .bypass _ _ => encodeRequest c 0x8#4 i
  | .reserved0 _ _ => encodeRequest c 0x0#4 i
  | .reserved9 _ _ => encodeRequest c 0x9#4 i
  | .reservedA _ _ => encodeRequest c 0xA#4 i
  | .reservedB _ _ => encodeRequest c 0xB#4 i
  | .reservedC _ _ => encodeRequest c 0xC#4 i
  | .reservedD _ _ => encodeRequest c 0xD#4 i
  | .reservedE _ _ => encodeRequest c 0xE#4 i
  | .reservedF _ _ => encodeRequest c 0xF#4 i
  | .reply => []
  | .telemetry => []
  | .fend => [fendByte]
  | .fesc => [fescByte]
  | .tfend => [tfendByte]
  | .tfesc => [tfescByte]

/-- The escape of one body byte on the wire (30_encoding.md R91, R92). -/
def escapeByte (b : Byte) : List Byte :=
  if b = fendByte then [fescByte, tfendByte]
  else if b = fescByte then [fescByte, tfescByte]
  else [b]

/-- `wire(B)`: the escaped, delimited form of a body (30_encoding.md R90). -/
def wireOf (body : List Byte) : List Byte := fendByte :: body.flatMap escapeByte ++ [fendByte]

/-- The payload length at which a table word is read: the length its row requires, with the fewest
entries or data bytes where the row lets it vary (30_encoding.md R98; notes/assumptions/14.md). -/
def nominalPayload (c : Config) (op : Nat) : Nat :=
  match op with
  | 3 => 2
  | 4 => 1 + c.addrW.bytes + 1
  | 5 => 1
  | 6 => 4
  | 7 => c.addrW.bytes + 2
  | _ => 0

/-- The bytes of a table word, first byte first, at least one. -/
def tableBytes (nbits w : Nat) : List Byte := leBytes (max 1 (nbits / 8)) w

/-- The body that a table word's bytes stand for: `SEQ`, the word's further bytes, zeros up to the
nominal payload length, and the CRC. -/
def tableBody (c : Config) (bytes : List Byte) : List Byte :=
  let seq := bytes.getD 0 0#8
  let given := bytes.drop 1
  frameBody c seq
    (given ++ List.replicate (nominalPayload c (seqLower seq).toNat - given.length) 0#8)

/-- The wire row a table word is, if it is one byte and one of the four special bytes: those rows fix
all eight bits, the request rows only four (notes/assumptions/14.md). -/
def tableWireRow (nbits w : Nat) : Option Instr :=
  match tableBytes nbits w with
  | [b] => decodeWireByte b
  | _ => none

/-- What the decoder reads from an instruction of the opcode table whose bits are `w`, in the reference
configuration. -/
def decodeTableWord (nbits w : Nat) : Option Instr :=
  match tableWireRow nbits w with
  | some i => some i
  | none => (decode referenceConfig .body (tableBody referenceConfig (tableBytes nbits w))).toOption

end Sys2Proof
end

