-- ==== Sys2Proof/Machine/State.lean ====
section
/-! DEFINITION. The state of the block (10_state.md), the inputs the environment supplies, the record of
what a step did at the ports, and the state after reset. -/

namespace Sys2Proof.Machine

/-- `rxState` (10_state.md R23). -/
inductive RxState where
  | idle | framing | escaping | complete
deriving DecidableEq, Repr

/-- `txState` (10_state.md R28). -/
inductive TxState where
  | idle | ready | busy | closing
deriving DecidableEq, Repr

/-- The five error classes (60_exceptions.md R260). They are labels: no code, no state, no output. -/
inductive ErrorClass where
  | framing | integrity | auth | validation | access
deriving DecidableEq, Repr

/-- What a handler returns (00_scope.md R14); an Error names its class. -/
inductive Verdict where
  | success
  | successNoReply
  | error (cls : ErrorClass)
deriving DecidableEq, Repr

/-- The four events (00_scope.md R13). -/
inductive Event where
  | reset
  | rxPush (b : Byte)
  | txPull
  | tick (e : Half)
deriving DecidableEq, Repr

/-- What the Memory Accessor answers to one access (20_memory.md R62 to R64): as a plain byte array
would, with `Fault`, or with bytes of the environment's own (the low bytes of `v`, as many as the access
is wide). A write is stored unless the answer is `fault` (notes/assumptions/3.md). -/
inductive AccessorAnswer where
  | memory
  | fault
  | live (v : BitVec 64)
deriving DecidableEq, Repr

/-- One transaction at a port (60_exceptions.md R277 to R279), with its answer. -/
inductive PortEvent where
  | pulled (r : Option Byte)
  | memRead (a : Addr) (w : Width) (r : Option (List Byte))
  | memWrite (a : Addr) (w : Width) (data : List Byte) (ok : Bool)
  | bypassCall (payload : List Byte) (answer : BypassAnswer)
deriving DecidableEq, Repr

/-- Device memory: (address, byte) pairs in canonical form (`memoryWf`). -/
abbrev Memory := List Host.Cell

/-- ReceivedFrame (10_state.md R21 to R25). -/
structure Received where
  state : RxState
  buffer : List Byte
  length : Nat
  timeoutCounter : Nat
deriving DecidableEq, Repr

/-- TransmitFrame (10_state.md R27 to R29). -/
structure Transmit where
  state : TxState
  buffer : List Byte
  cursor : Nat
  endIndex : Nat
deriving DecidableEq, Repr

/-- An address and a length: `pendingBlock`, `versionInfo` (10_state.md R39, R40). -/
structure Block where
  address : Addr
  length : Half
deriving DecidableEq, Repr

/-- Session (10_state.md R30 to R40). -/
structure Session where
  isAuthenticated : Bool
  isLoggingEnabled : Bool
  isReplyPending : Bool
  masterSeq : Nibble
  slaveSeq : Nibble
  passkey : Word
  logTimeoutCounter : Nat
  logWatchdogLimit : Half
  logIntervalCounter : Nat
  logIntervalPeriod : Half
  pendingBlock : Block
  versionInfo : Block
deriving DecidableEq, Repr

/-- One probe (10_state.md R41). -/
structure Target where
  address : Addr
  size : Width
deriving DecidableEq, Repr

/-- LogTargets (10_state.md R41 to R43): one array for the staged and the committed entries. -/
structure LogTargets where
  entries : List Target
  committedCount : Nat
  stagedCount : Nat
deriving DecidableEq, Repr

/-- MODEL's own: what the environment supplies. The events to come (00_scope.md R13), device memory, the
coming answers of the two oracles (20_memory.md R62, 44_commands.md R225), and the count a free value is
applied to. -/
structure Environment where
  inputs : List Event
  memory : Memory
  accessor : List AccessorAnswer
  bypass : List BypassAnswer
  freeCount : Nat
deriving DecidableEq, Repr

/-- MODEL's own: what the last step did at the ports, and the error classes it absorbed, both in order
(60_exceptions.md R260: "may carry the class as a label on a transition"). -/
structure Trace where
  ports : List PortEvent
  absorbed : List ErrorClass
deriving DecidableEq, Repr

/-- The whole state. `cfg` holds the parameters, which no rule writes (10_state.md R47). -/
structure State where
  cfg : Config
  rx : Received
  tx : Transmit
  session : Session
  targets : LogTargets
  env : Environment
  trace : Trace
deriving DecidableEq, Repr

/-- Why the machine stops. -/
inductive Fault where
  /-- Raised by `step` when the parameters break the constraint column of 00_scope.md R8, which
  70_reset_and_hazards.md R304 (a) requires of the environment. Safe: no claim can be proved of such a
  block. -/
  | badConfiguration
deriving DecidableEq, Repr

/-- Why an instruction has no meaning. -/
inductive Refusal where
  /-- Raised by an arm of `exec` that is not written yet; no arm is. Safe: the machine stops. -/
  | notModelled (mnemonic : String)
deriving DecidableEq, Repr

/-- The three outcomes of a step. -/
abbrev Result := Host.Outcome State Fault Refusal

/-- ReceivedFrame after `RESET` (10_state.md R48). `RXBUF` is unspecified there; its bytes are 0 by
DESIGN CHOICE (notes/assumptions/8.md). -/
def Received.initial (c : Config) : Received where
  state := .idle
  buffer := List.replicate c.rxCap 0#8
  length := 0
  timeoutCounter := 0

/-- TransmitFrame after `RESET` (10_state.md R48), `TXBUF` as `RXBUF`. -/
def Transmit.initial (c : Config) : Transmit where
  state := .idle
  buffer := List.replicate c.txCap 0#8
  cursor := 0
  endIndex := 0

/-- Session after `RESET` (10_state.md R48). -/
def Session.initial (c : Config) : Session where
  isAuthenticated := false
  isLoggingEnabled := false
  isReplyPending := false
  masterSeq := 0#4
  slaveSeq := 1#4
  passkey := c.passkey
  logTimeoutCounter := 0
  logWatchdogLimit := c.logWatchdogLimit
  logIntervalCounter := 0
  logIntervalPeriod := c.logPeriodDefault
  pendingBlock := ⟨0#32, 0#16⟩
  versionInfo := ⟨c.versionAddr, c.versionLen⟩

/-- LogTargets after `RESET` (10_state.md R48); the unspecified entries by DESIGN CHOICE
(notes/assumptions/8.md). -/
def LogTargets.initial (c : Config) : LogTargets where
  entries := List.replicate c.nTargets ⟨0#32, .w1⟩
  committedCount := 0
  stagedCount := 0

/-- The environment of a run nothing has been placed in. -/
def Environment.empty : Environment where
  inputs := []
  memory := []
  accessor := []
  bypass := []
  freeCount := 0

/-- No transaction and no error. -/
def Trace.empty : Trace where
  ports := []
  absorbed := []

/-- A block with parameters `c`, directly after `RESET`, in an environment (10_state.md R48). -/
def State.initial (c : Config) (env : Environment) : State where
  cfg := c
  rx := Received.initial c
  tx := Transmit.initial c
  session := Session.initial c
  targets := LogTargets.initial c
  env := env
  trace := Trace.empty

/-- The machine right after reset: the reference configuration (00_scope.md R8), the values of
10_state.md R48, and nothing placed in the environment. -/
def State.reset : State := State.initial referenceConfig Environment.empty

end Sys2Proof.Machine
end

