-- ==== Sys2Proof/Machine/Ops.lean ====
section
/-! DEFINITION. The operations every meaning is made of: device memory, the Memory Accessor and bypass
ports, absorbing an error, and loading a frame into the transmitter. -/

namespace Sys2Proof.Machine

/-! ### Device memory as a plain byte array -/

/-- What an address nothing is listed for reads as: 0, as in 95_test_vectors.md ("zero where not
stated"). DESIGN CHOICE, notes/assumptions/4.md. -/
def unlistedByte : Byte := 0#8

/-- One byte of device memory. -/
def memGet : Memory → Nat → Byte
  | [], _ => unlistedByte
  | (k, v) :: m, a => if a = k then v else memGet m a

/-- Store one byte, keeping the canonical form: a byte equal to the unlisted one is not listed. -/
def memPut : Memory → Nat → Byte → Memory
  | [], a, b => if b = unlistedByte then [] else [(a, b)]
  | (k, v) :: m, a, b =>
    if a < k then (if b = unlistedByte then (k, v) :: m else (a, b) :: (k, v) :: m)
    else if a = k then (if b = unlistedByte then m else (a, b) :: m)
    else (k, v) :: memPut m a b

/-- The canonical form above an address `lo`: addresses strictly rising, no byte equal to the unlisted
one. -/
def memoryWfFrom (lo : Nat) : Memory → Bool
  | [] => true
  | (k, v) :: m => decide (lo ≤ k) && decide (v ≠ unlistedByte) && memoryWfFrom (k + 1) m

/-- The canonical form of device memory. -/
def Memory.wf (m : Memory) : Bool := memoryWfFrom 0 m

/-- `(a + i) mod 2^(8·ADDR_W)` (20_memory.md R68). -/
def wrapAddr (c : Config) (a : Addr) (i : Nat) : Addr :=
  BitVec.ofNat 32 ((a.toNat + i) % 2 ^ (8 * c.addrW.bytes))

/-- The bytes at `a`, `a + 1`, … (20_memory.md R60: byte `i` is the byte at `addr + i`). Past the top
the address wraps, by DESIGN CHOICE (notes/assumptions/5.md). -/
def memGetBytes (c : Config) (m : Memory) (a : Addr) (n : Nat) : List Byte :=
  (List.range n).map fun i => memGet m (wrapAddr c a i).toNat

/-- Store bytes at `a + i`, `a + i + 1`, … (20_memory.md R60). -/
def memPutBytes (c : Config) (a : Addr) : Nat → List Byte → Memory → Memory
  | _, [], m => m
  | i, b :: bs, m => memPutBytes c a (i + 1) bs (memPut m (wrapAddr c a i).toNat b)

/-- Store a list of (address, byte) pairs, in order. -/
def memPutCells (c : Config) : List (Addr × Byte) → Memory → Memory
  | [], m => m
  | (a, b) :: rest, m => memPutCells c rest (memPut m (wrapAddr c a 0).toNat b)

/-! ### The record of a step -/

/-- Record a port transaction. -/
def State.record (p : PortEvent) (s : State) : State := { s with trace.ports := s.trace.ports ++ [p] }

/-- Taking an error, all of it (60_exceptions.md R269, R271): nothing is saved, nothing is redirected,
there is nothing to return from; the class is a label (R260). What state an error changes is said where
it is raised. -/
def State.absorb (cls : ErrorClass) (s : State) : State :=
  { s with trace.absorbed := s.trace.absorbed ++ [cls] }

/-! ### The Memory Accessor port (20_memory.md R61 to R64; 60_exceptions.md R278) -/

/-- The accessor's answer to the next access: the environment's, and a plain byte array's when it has
none left (20_memory.md R62; notes/assumptions/3.md). -/
def accessorAnswer (s : State) : AccessorAnswer := s.env.accessor.headD .memory

/-- The bytes an answer gives a read of width `w` at `a`; `none` is `Fault` (20_memory.md R63). -/
def readAnswer (c : Config) (m : Memory) (a : Addr) (w : Width) : AccessorAnswer → Option (List Byte)
  | .memory => some (memGetBytes c m a w.bytes)
  | .fault => none
  | .live v => some (leBytes w.bytes v.toNat)

/-- The result of `MemRead(a, w)` in a state. -/
def memReadResult (a : Addr) (w : Width) (s : State) : Option (List Byte) :=
  readAnswer s.cfg s.env.memory a w (accessorAnswer s)

/-- The state after one access: its answer is used up and the transaction recorded. -/
def afterAccess (p : PortEvent) (s : State) : State :=
  State.record p { s with env.accessor := s.env.accessor.tail }

/-- `MemRead(a, w)` (20_memory.md R63). -/
def memRead (a : Addr) (w : Width) (s : State) : Option (List Byte) × State :=
  (memReadResult a w s, afterAccess (.memRead a w (memReadResult a w s)) s)

/-- Whether `MemWrite` is answered `ok` (20_memory.md R64). -/
def memWriteOk (s : State) : Bool := decide (accessorAnswer s ≠ .fault)

/-- `MemWrite(a, w, data)`: on `Fault` nothing is written (20_memory.md R64). -/
def memWrite (a : Addr) (w : Width) (data : List Byte) (s : State) : Bool × State :=
  (memWriteOk s,
    afterAccess (.memWrite a w data (memWriteOk s))
      (if memWriteOk s then { s with env.memory := memPutBytes s.cfg a 0 data s.env.memory } else s))

/-- The reads of one frame, in order, each exactly once, stopping at the first `Fault`
(20_memory.md R66, R69; 43_dispatch_and_reply.md R193, R195; 45_log_scheduler.md R245, R247). -/
def readAll : List (Addr × Width) → State → Option (List Byte) × State
  | [], s => (some [], s)
  | (a, w) :: rest, s =>
    match memRead a w s with
    | (none, s1) => (none, s1)
    | (some bs, s1) =>
      match readAll rest s1 with
      | (none, s2) => (none, s2)
      | (some tl, s2) => (some (bs ++ tl), s2)

/-- The byte-wide reads of a block, ascending, wrapping (20_memory.md R66, R68). -/
def blockReads (c : Config) (b : Block) : List (Addr × Width) :=
  (List.range b.length.toNat).map fun i => (wrapAddr c b.address i, .w1)

/-- The reads of a sample, in table order (20_memory.md R66). -/
def sampleReads (t : LogTargets) : List (Addr × Width) :=
  (t.entries.take t.committedCount).map fun e => (e.address, e.size)

/-! ### The bypass port (44_commands.md R225; 60_exceptions.md R279) -/

/-- The capability's answer: the environment's, and a free value when it has none left
(notes/assumptions/6.md). -/
def bypassAnswer (payload : List Byte) (s : State) : BypassAnswer :=
  s.env.bypass.headD (Config.freeBypass s.env.freeCount payload)

/-- One call of the capability: what it leaves in device memory, its answer used up, the transaction
recorded. -/
def bypassCall (payload : List Byte) (s : State) : BypassAnswer × State :=
  let answer := bypassAnswer payload s
  (answer,
    State.record (.bypassCall payload answer)
      { s with
        env.memory := memPutCells s.cfg answer.stores s.env.memory
        env.bypass := s.env.bypass.tail
        env.freeCount := s.env.freeCount + 1 })

/-! ### Loading a frame (43_dispatch_and_reply.md R193, R194; 42_frame_transmitter.md R169) -/

/-- `next(s)` (43_dispatch_and_reply.md R194). -/
def nextSeq (s : Nibble) : Nibble := if s = 15#4 then 1#4 else s + 1#4

/-- `buf[0 .. |f|) <- f`. -/
def overwrite (buf f : List Byte) : List Byte := f ++ buf.drop f.length

/-- The body `load_frame` builds for a payload (43_dispatch_and_reply.md R193). -/
def loadedBody (payload : List Byte) (s : State) : List Byte :=
  frameBody s.cfg (seqByte s.session.masterSeq (nextSeq s.session.slaveSeq)) payload

/-- `load_frame(P)` (43_dispatch_and_reply.md R193). -/
def loadFrame (payload : List Byte) (s : State) : State :=
  let f := loadedBody payload s
  { s with
    session.slaveSeq := nextSeq s.session.slaveSeq
    tx := ⟨.ready, overwrite s.tx.buffer f, 0, f.length⟩ }

/-- Read all, then load; a `Fault` abandons the frame whole (43_dispatch_and_reply.md R195;
45_log_scheduler.md R247). -/
def readAndLoad (reads : List (Addr × Width)) (s : State) : State :=
  match readAll reads s with
  | (none, s1) => s1.absorb .access
  | (some p, s1) => loadFrame p s1

/-! ### Sizes of targets -/

/-- The sum of the sizes of the first `n` targets (10_state.md R43). -/
def sizeSum (ts : List Target) (n : Nat) : Nat := ((ts.take n).map fun t => t.size.bytes).sum

/-! ### Outcomes -/

/-- Do `f` after an outcome that is a next state. -/
def andThen (r : Result) (f : State → Result) : Result :=
  match r with
  | .next s => f s
  | .fault e => .fault e
  | .refused e => .refused e

end Sys2Proof.Machine
end

