-- ==== Sys2Proof/Machine/Flags.lean ====
section
/-! DEFINITION. The three one-bit flags of the Session, the authentication gate, and what each outcome of
a handler does (43_dispatch_and_reply.md R184 to R190). -/

namespace Sys2Proof.Machine

/-- Write `isAuthenticated` (10_state.md R31). -/
def State.setAuthenticated (v : Bool) (s : State) : State := { s with session.isAuthenticated := v }

/-- Write `isLoggingEnabled` (10_state.md R32). -/
def State.setLogging (v : Bool) (s : State) : State := { s with session.isLoggingEnabled := v }

/-- Write `isReplyPending` (10_state.md R33). -/
def State.setReplyPending (v : Bool) (s : State) : State := { s with session.isReplyPending := v }

/-- Write `pendingBlock` (10_state.md R39). -/
def State.setPending (b : Block) (s : State) : State := { s with session.pendingBlock := b }

/-- The empty block `{0, 0}` (10_state.md R39). -/
def emptyBlock : Block := ⟨0#32, 0#16⟩

/-- What a handler is: the outcome and the state it leaves. -/
abbrev Handler := State → Verdict × State

/-- Accepting a request: `masterSeq` is adopted and the watchdog counter cleared
(43_dispatch_and_reply.md R187). -/
def State.accept (m : Nibble) (s : State) : State :=
  { s with session.masterSeq := m, session.logTimeoutCounter := 0 }

/-- The three outcomes (43_dispatch_and_reply.md R187 to R190). -/
def applyVerdict (m : Nibble) : Verdict × State → State
  | (.success, s) => (s.accept m).setReplyPending true
  | (.successNoReply, s) => s.accept m
  | (.error cls, s) => s.absorb cls

/-- Run a handler: `pendingBlock` is cleared first (43_dispatch_and_reply.md R186). -/
def runHandler (m : Nibble) (h : Handler) (s : State) : State := applyVerdict m (h (s.setPending emptyBlock))

/-- A command behind the authentication gate (43_dispatch_and_reply.md R184): unauthenticated, no handler
runs and nothing changes. -/
def privileged (m : Nibble) (h : Handler) (s : State) : State :=
  if s.session.isAuthenticated then runHandler m h s else s.absorb .auth

/-- A reserved opcode (44_commands.md R227): the gate comes first, then there is no handler. -/
def reservedOpcode (s : State) : State :=
  if s.session.isAuthenticated then s.absorb .validation else s.absorb .auth

end Sys2Proof.Machine
end

