-- ==== Sys2Proof/Machine/Access.lean ====
section
/-! DEFINITION. The commands that authenticate and that reach device memory: WRITE, AUTH, DUMP, BYPASS
(44_commands.md R213, R215, R223, R225, R226). -/

namespace Sys2Proof.Machine

/-- The handler of WRITE (44_commands.md R213). -/
def handleWrite (ops : Operands WriteFields) : Handler := fun s =>
  match ops with
  | .badLength _ => (.error .validation, s)
  | .fields f =>
    if f.sizeByte.toNat ≠ f.width.bytes then (.error .validation, s)
    else
      match memWrite f.address f.width f.data s with
      | (false, s1) => (.error .access, s1)
      | (true, s1) => (if s1.session.isLoggingEnabled then .successNoReply else .success, s1)

/-- WRITE (44_commands.md R213). -/
def execWrite (m : Nibble) (ops : Operands WriteFields) (s : State) : Result :=
  .next (privileged m (handleWrite ops) s)

/-- A block cut to `MAX_PAYLOAD` (44_commands.md R215, R225). -/
def capBlock (c : Config) (a : Addr) (len : Half) : Block :=
  ⟨a, BitVec.ofNat 16 (min len.toNat c.maxPayload)⟩

/-- The handler of AUTH (44_commands.md R215). -/
def handleAuth (ops : Operands Word) : Handler := fun s =>
  match ops with
  | .badLength _ => (.error .validation, s)
  | .fields key =>
    if key ≠ s.session.passkey then (.error .auth, s.setAuthenticated false)
    else (.success,
      (((s.setAuthenticated true).setPending
        (capBlock s.cfg s.session.versionInfo.address s.session.versionInfo.length)).setLogging false))

/-- AUTH (44_commands.md R215): the one command the gate lets through at either level
(43_dispatch_and_reply.md R184). -/
def execAuth (m : Nibble) (ops : Operands Word) (s : State) : Result :=
  .next (runHandler m (handleAuth ops) s)

/-- The handler of DUMP (44_commands.md R223): the length is refused above `MAX_PAYLOAD`, not cut, and
no access is made. -/
def handleDump (ops : Operands DumpFields) : Handler := fun s =>
  match ops with
  | .badLength _ => (.error .validation, s)
  | .fields f =>
    if s.cfg.maxPayload < f.length.toNat then (.error .validation, s)
    else (.success, (s.setPending ⟨f.address, f.length⟩).setLogging false)

/-- DUMP (44_commands.md R223). -/
def execDump (m : Nibble) (ops : Operands DumpFields) (s : State) : Result :=
  .next (privileged m (handleDump ops) s)

/-- A registered capability is called once with the whole payload; an Error leaves `pendingBlock` empty
(44_commands.md R225, R226). Its address has `8·ADDR_W` bits. -/
def invokeBypass (p : List Byte) (s : State) : Verdict × State :=
  match bypassCall p s with
  | (answer, s1) =>
    if answer.success then
      (.success, s1.setPending (capBlock s.cfg (wrapAddr s.cfg answer.address 0) answer.length))
    else (.error .validation, s1)

/-- The handler of BYPASS (44_commands.md R225, R226): logging goes off whatever follows. -/
def handleBypass (p : List Byte) : Handler := fun s =>
  let s1 := s.setLogging false
  if s.cfg.bypass then invokeBypass p s1 else (.error .validation, s1)

/-- BYPASS (44_commands.md R225, R226). -/
def execBypass (m : Nibble) (p : List Byte) (s : State) : Result :=
  .next (privileged m (handleBypass p) s)

end Sys2Proof.Machine
end

