-- ==== Sys2Proof/Machine/Frames.lean ====
section
/-! DEFINITION. The two frames the block originates: the reply (step T3, 43_dispatch_and_reply.md R192 to
R195) and the telemetry frame (45_log_scheduler.md R244 to R247). -/

namespace Sys2Proof.Machine

/-- REPLY: step T3 (43_dispatch_and_reply.md R192 to R195). The flag is cleared first; an abandoned reply
leaves it cleared. -/
def execReply (s : State) : Result :=
  .next
    (if s.session.isReplyPending ∧ s.tx.state = .idle then
      readAndLoad (blockReads s.cfg s.session.pendingBlock) (s.setReplyPending false)
    else s)

/-- `sample_allowed` (45_log_scheduler.md R244 (a) to (d)). -/
def sampleAllowed (s : State) : Bool :=
  !s.session.isReplyPending && decide (s.tx.state = .idle) && decide (0 < s.targets.committedCount) &&
  decide (sizeSum s.targets.entries s.targets.committedCount ≤ s.cfg.maxPayload)

/-- TELEMETRY: a sample that has fallen due (45_log_scheduler.md R244 to R247); not allowed, it is
skipped. -/
def execTelemetry (s : State) : Result :=
  .next (if sampleAllowed s then readAndLoad (sampleReads s.targets) s else s)

end Sys2Proof.Machine
end

