-- ==== Sys2Proof/Machine/Logging.lean ====
section
/-! DEFINITION. The commands that start, stop and configure logging: LOGSTART, LOGSTOP, LOGPERIOD, LOGCFG
(44_commands.md R210 to R212, R220 to R222). -/

namespace Sys2Proof.Machine

/-- The handler of LOGSTART (44_commands.md R210). -/
def handleLogstart (p : List Byte) : Handler := fun s =>
  if p.length ≠ 0 then (.error .validation, s)
  else if s.session.isLoggingEnabled then (.successNoReply, s)
  else (.success, { s with session.isLoggingEnabled := true, session.logIntervalCounter := 0 })

/-- LOGSTART (44_commands.md R210). -/
def execLogstart (m : Nibble) (p : List Byte) (s : State) : Result :=
  .next (privileged m (handleLogstart p) s)

/-- The handler of LOGSTOP (44_commands.md R211): the payload is not examined. -/
def handleLogstop : Handler := fun s => (.success, s.setLogging false)

/-- LOGSTOP (44_commands.md R211). -/
def execLogstop (m : Nibble) (_p : List Byte) (s : State) : Result :=
  .next (privileged m handleLogstop s)

/-- The handler of LOGPERIOD (44_commands.md R212). -/
def handleLogperiod (ops : Operands Half) : Handler := fun s =>
  match ops with
  | .badLength _ => (.error .validation, s)
  | .fields period =>
    if period = 0#16 then (.error .validation, s)
    else (.success, { s with session.logIntervalPeriod := period, session.isLoggingEnabled := false })

/-- LOGPERIOD (44_commands.md R212). -/
def execLogperiod (m : Nibble) (ops : Operands Half) (s : State) : Result :=
  .next (privileged m (handleLogperiod ops) s)

/-- `fail` of 44_commands.md R220, R221: the whole configuration is discarded. -/
def discardTargets (s : State) : Verdict × State :=
  (.error .validation, { s with targets.stagedCount := 0, targets.committedCount := 0 })

/-- Write `stagedCount`. -/
def State.setStaged (n : Nat) (s : State) : State := { s with targets.stagedCount := n }

/-- Store entries from index `i` on, stopping at the first size byte outside `SIZES`; whether all were
stored (44_commands.md R220, the loop; R221 (c)). -/
def storeEntries (c : Config) : Nat → List CfgEntry → List Target → List Target × Bool
  | _, [], ts => (ts, true)
  | i, e :: es, ts =>
    match widthOfByte c e.sizeByte with
    | none => (ts, false)
    | some w => storeEntries c (i + 1) es (ts.set i ⟨e.address, w⟩)

/-- The end of a LOGCFG whose entries are stored and within the bound: commit if the end flag is set,
logging off (44_commands.md R220). -/
def finishCfg (flags : Byte) (s : State) : State :=
  State.setLogging false
    (if cfgEnd flags then { s with targets.committedCount := s.targets.stagedCount } else s)

/-- LOGCFG after its length is accepted and the start flag obeyed (44_commands.md R220). -/
def appendEntries (f : CfgFields) (s : State) : Verdict × State :=
  if s.cfg.nTargets < s.targets.stagedCount + f.entries.length then discardTargets s
  else
    match storeEntries s.cfg s.targets.stagedCount f.entries s.targets.entries with
    | (ts, false) => discardTargets { s with targets.entries := ts }
    | (ts, true) =>
      let s1 := { s with
        targets.entries := ts
        targets.stagedCount := s.targets.stagedCount + f.entries.length }
      if s.cfg.maxPayload < sizeSum ts s1.targets.stagedCount then discardTargets s1
      else (.success, finishCfg f.flags s1)

/-- The handler of LOGCFG (44_commands.md R220, R221). -/
def handleLogcfg (ops : Operands CfgFields) : Handler := fun s =>
  match ops with
  | .badLength _ => discardTargets s
  | .fields f => appendEntries f (if cfgStart f.flags then s.setStaged 0 else s)

/-- LOGCFG (44_commands.md R220 to R222). -/
def execLogcfg (m : Nibble) (ops : Operands CfgFields) (s : State) : Result :=
  .next (privileged m (handleLogcfg ops) s)

end Sys2Proof.Machine
end

