-- ==== Sys2Proof/Machine/Receiver.lean ====
section
/-! DEFINITION. The Frame Receiver (41_frame_receiver.md): the meanings of the four special wire bytes and
of every other byte, the time-out T1, and the clear. -/

namespace Sys2Proof.Machine

/-- `rx_reset` (41_frame_receiver.md R143); `RXBUF` is not erased. -/
def State.rxReset (s : State) : State :=
  { s with rx := { s.rx with state := .idle, length := 0, timeoutCounter := 0 } }

/-- A start of frame: length and counter 0, `Framing` (41_frame_receiver.md R142; R145 with its length
already 0). -/
def State.rxOpen (s : State) : State :=
  { s with rx := { s.rx with state := .framing, length := 0, timeoutCounter := 0 } }

/-- `append(v)`, after which the receiver is in `Framing` (41_frame_receiver.md R141, R144, R146, R147). -/
def State.rxAppend (v : Byte) (s : State) : State :=
  { s with rx := { s.rx with
      state := .framing
      buffer := s.rx.buffer.set s.rx.length v
      length := s.rx.length + 1 } }

/-- Write `rxState` alone. -/
def State.setRxState (r : RxState) (s : State) : State := { s with rx.state := r }

/-- A malformed escape (41_frame_receiver.md R148; FramingError, 60_exceptions.md R261 (a)). -/
def malformedEscape (s : State) : State := s.rxReset.absorb .framing

/-- The overflow guard (41_frame_receiver.md R149; FramingError, 60_exceptions.md R261 (b)). -/
def overflowGuard (s : State) : State :=
  if (s.rx.state = .framing ∨ s.rx.state = .escaping) ∧ s.cfg.rxCap ≤ s.rx.length then
    s.rxReset.absorb .framing
  else s

/-- One `RX_PUSH` in the order of 41_frame_receiver.md R140: the hold of R151, the guard of R149, then
the row of the state that results. -/
def receive (onIdle onFraming onEscaping : State → State) (s : State) : State :=
  if s.rx.state = .complete then s
  else
    let s1 := overflowGuard s
    match s1.rx.state with
    | .idle => onIdle s1
    | .framing => onFraming s1
    | .escaping => onEscaping s1
    | .complete => s1

/-- The closing or a doubled delimiter (41_frame_receiver.md R145, R154). -/
def delimiterInFrame (s : State) : State :=
  if s.rx.length = 0 then s.rxOpen else s.setRxState .complete

/-- FEND, 0xC0 (41_frame_receiver.md R142, R145, R148, R154). -/
def execFend (s : State) : Result :=
  .next (receive State.rxOpen delimiterInFrame malformedEscape s)

/-- FESC, 0xDB (41_frame_receiver.md R142, R148, R153). -/
def execFesc (s : State) : Result :=
  .next (receive id (State.setRxState .escaping) malformedEscape s)

/-- TFEND, 0xDC (41_frame_receiver.md R142, R144, R146). -/
def execTfend (s : State) : Result :=
  .next (receive id (State.rxAppend tfendByte) (State.rxAppend fendByte) s)

/-- TFESC, 0xDD (41_frame_receiver.md R142, R144, R147). -/
def execTfesc (s : State) : Result :=
  .next (receive id (State.rxAppend tfescByte) (State.rxAppend fescByte) s)

/-- Any other byte (41_frame_receiver.md R142, R144, R148). -/
def receiveOrdinary (b : Byte) (s : State) : State :=
  receive id (State.rxAppend b) malformedEscape s

/-- Step T1, the receive time-out (41_frame_receiver.md R150; FramingError, 60_exceptions.md R261 (c)). -/
def rxTimeout (e : Half) (s : State) : State :=
  if s.rx.state = .framing ∨ s.rx.state = .escaping then
    if s.cfg.rxTimeout < s.rx.timeoutCounter + e.toNat then s.rxReset.absorb .framing
    else { s with rx.timeoutCounter := s.rx.timeoutCounter + e.toNat }
  else s

/-- The received body, `RXBUF[0 .. rxLength)` (43_dispatch_and_reply.md R181). -/
def State.rxBody (s : State) : List Byte := s.rx.buffer.take s.rx.length

end Sys2Proof.Machine
end

