-- ==== Sys2Proof/Machine/Reserved.lean ====
section
/-! DEFINITION. The eight reserved opcodes (44_commands.md R227): no handler, no state change. -/

namespace Sys2Proof.Machine

/-- Opcode 0 (44_commands.md R227). -/
def execReserved0 (_m : Nibble) (_p : List Byte) (s : State) : Result := .next (reservedOpcode s)
/-- Opcode 9 (44_commands.md R227). -/
def execReserved9 (_m : Nibble) (_p : List Byte) (s : State) : Result := .next (reservedOpcode s)
/-- Opcode 10 (44_commands.md R227). -/
def execReservedA (_m : Nibble) (_p : List Byte) (s : State) : Result := .next (reservedOpcode s)
/-- Opcode 11 (44_commands.md R227). -/
def execReservedB (_m : Nibble) (_p : List Byte) (s : State) : Result := .next (reservedOpcode s)
/-- Opcode 12 (44_commands.md R227). -/
def execReservedC (_m : Nibble) (_p : List Byte) (s : State) : Result := .next (reservedOpcode s)
/-- Opcode 13 (44_commands.md R227). -/
def execReservedD (_m : Nibble) (_p : List Byte) (s : State) : Result := .next (reservedOpcode s)
/-- Opcode 14 (44_commands.md R227). -/
def execReservedE (_m : Nibble) (_p : List Byte) (s : State) : Result := .next (reservedOpcode s)
/-- Opcode 15 (44_commands.md R227). -/
def execReservedF (_m : Nibble) (_p : List Byte) (s : State) : Result := .next (reservedOpcode s)

end Sys2Proof.Machine
end

