-- ==== Sys2Proof/Machine/Dispatch.lean ====
section
/-! DEFINITION. One arm for each instruction: its meaning (43_dispatch_and_reply.md R185). -/

namespace Sys2Proof.Machine

/-- What an instruction does. -/
def exec (i : Instr) (s : State) : Host.Outcome State Fault Refusal :=
  match i with
  | .logstart m p => Sys2Proof.Machine.execLogstart m p s
  | .logstop m p => Sys2Proof.Machine.execLogstop m p s
  | .logperiod m ops => Sys2Proof.Machine.execLogperiod m ops s
  | .write m ops => Sys2Proof.Machine.execWrite m ops s
  | .logcfg m ops => Sys2Proof.Machine.execLogcfg m ops s
  | .auth m ops => Sys2Proof.Machine.execAuth m ops s
  | .dump m ops => Sys2Proof.Machine.execDump m ops s
  | .bypass m p => Sys2Proof.Machine.execBypass m p s
  | .reserved0 m p => Sys2Proof.Machine.execReserved0 m p s
  | .reserved9 m p => Sys2Proof.Machine.execReserved9 m p s
  | .reservedA m p => Sys2Proof.Machine.execReservedA m p s
  | .reservedB m p => Sys2Proof.Machine.execReservedB m p s
  | .reservedC m p => Sys2Proof.Machine.execReservedC m p s
  | .reservedD m p => Sys2Proof.Machine.execReservedD m p s
  | .reservedE m p => Sys2Proof.Machine.execReservedE m p s
  | .reservedF m p => Sys2Proof.Machine.execReservedF m p s
  | .reply => Sys2Proof.Machine.execReply s
  | .telemetry => Sys2Proof.Machine.execTelemetry s
  | .fend => Sys2Proof.Machine.execFend s
  | .fesc => Sys2Proof.Machine.execFesc s
  | .tfend => Sys2Proof.Machine.execTfend s
  | .tfesc => Sys2Proof.Machine.execTfesc s

end Sys2Proof.Machine
end

