-- ==== Sys2Proof/Machine/Transmitter.lean ====
section
/-! DEFINITION. The Frame Transmitter (42_frame_transmitter.md): the event `TX_PULL` and the query
`isTransmitReady`. -/

namespace Sys2Proof.Machine

/-- The escape code of a byte that is sent escaped (42_frame_transmitter.md R164). -/
def escapeCode (b : Byte) : Option Byte :=
  if b = fendByte then some tfendByte else if b = fescByte then some tfescByte else none

/-- A pull of a body byte (42_frame_transmitter.md R163, R164): result and transmitter afterwards. -/
def pullBodyByte (t : Transmit) : Option Byte × Transmit :=
  match escapeCode (t.buffer.getD t.cursor 0#8) with
  | some code => (some fescByte, { t with buffer := t.buffer.set t.cursor code })
  | none => (some (t.buffer.getD t.cursor 0#8), { t with cursor := t.cursor + 1 })

/-- The table of `TX_PULL` (42_frame_transmitter.md R161 to R167). -/
def pull (t : Transmit) : Option Byte × Transmit :=
  match t.state with
  | .ready => (some fendByte, { t with cursor := 0, state := .busy })
  | .busy =>
    if t.cursor < t.endIndex then pullBodyByte t else (some fendByte, { t with state := .closing })
  | .closing => (none, { t with state := .idle })
  | .idle => (none, t)

/-- The event `TX_PULL` (42_frame_transmitter.md R160): its result goes out at port TX. -/
def txPull (s : State) : State :=
  State.record (.pulled (pull s.tx).1) { s with tx := (pull s.tx).2 }

/-- The query `isTransmitReady` (42_frame_transmitter.md R168): it changes no state. -/
def State.isTransmitReady (s : State) : Bool := decide (s.tx.state = .ready)

end Sys2Proof.Machine
end

