-- ==== Sys2Proof/Machine/Tick.lean ====
section
/-! DEFINITION. The four events (00_scope.md R13): `TICK` with its steps T1 to T5
(43_dispatch_and_reply.md R180), `RX_PUSH`, `TX_PULL` and `RESET`; and how a table word is placed where
the next step runs it. -/

namespace Sys2Proof.Machine

/-- The class of a body that is dropped before the gate (60_exceptions.md R262): short, or CRC. -/
def dropBody (s : State) : State := s.absorb .integrity

/-- Step T2 (43_dispatch_and_reply.md R181): the body is decoded and its request run, or dropped; in
every case the receiver is then cleared (R152). -/
def consume (s : State) : Result :=
  if s.rx.state = .complete then
    andThen
      (match decode s.cfg .body s.rxBody with
        | .ok i => exec i s
        | .error _ => .next (dropBody s))
      fun s1 => .next s1.rxReset
  else .next s

/-- Step T4, the watchdog (45_log_scheduler.md R241). -/
def watchdog (e : Half) (s : State) : State :=
  if s.session.isLoggingEnabled then
    let s1 := { s with session.logTimeoutCounter := s.session.logTimeoutCounter + e.toNat }
    if s.session.logWatchdogLimit.toNat ≤ s1.session.logTimeoutCounter then s1.setLogging false else s1
  else s

/-- Write `logIntervalCounter`. -/
def State.setIntervalCounter (n : Nat) (s : State) : State := { s with session.logIntervalCounter := n }

/-- Step T5, the sampler (45_log_scheduler.md R243): a sample that falls due is TELEMETRY's. -/
def sampler (e : Half) (s : State) : Result :=
  if s.session.isLoggingEnabled then
    if s.session.logIntervalPeriod.toNat ≤ s.session.logIntervalCounter + e.toNat then
      exec .telemetry (s.setIntervalCounter 0)
    else .next (s.setIntervalCounter (s.session.logIntervalCounter + e.toNat))
  else .next s

/-- The event `TICK(e)`: T1 to T5 in this order, each seeing what the one before left
(43_dispatch_and_reply.md R180). -/
def tick (e : Half) (s : State) : Result :=
  andThen (consume (rxTimeout e s)) fun s2 =>
  andThen (exec .reply s2) fun s3 =>
  sampler e (watchdog e s3)

/-- The event `RX_PUSH(b)` (41_frame_receiver.md R140): a special byte is an instruction of its own. -/
def rxPush (b : Byte) (s : State) : Result :=
  match decode s.cfg .wire [b] with
  | .ok i => exec i s
  | .error _ => .next (receiveOrdinary b s)

/-- The event `RESET` (70_reset_and_hazards.md R300): every field to its value of 10_state.md R48, the
parameters and the environment left as they are. -/
def resetEvent (s : State) : State := State.initial s.cfg s.env

/-- The effect of one event (00_scope.md R13). -/
def react (ev : Event) (s : State) : Result :=
  match ev with
  | .reset => .next (resetEvent s)
  | .rxPush b => rxPush b s
  | .txPull => .next (txPull s)
  | .tick e => tick e s

/-- Take the next event off the environment's list and start a new record of ports and errors. -/
def State.begin (rest : List Event) (s : State) : State :=
  { s with env.inputs := rest, trace := Trace.empty }

/-- Put an event at the head of the environment's list. -/
def State.withEvent (ev : Event) (s : State) : State := { s with env.inputs := ev :: s.env.inputs }

/-- A completed body in the receiver. -/
def State.withBody (body : List Byte) (s : State) : State :=
  { s with rx := { s.rx with
      state := .complete
      buffer := overwrite s.rx.buffer body
      length := body.length } }

/-- Place a table word where the next step runs it: a special wire byte as the next `RX_PUSH`, a request
as the completed body that the next `TICK(0)` consumes (notes/assumptions/14.md). -/
def placeWord (nbits w : Nat) (s : State) : State :=
  match tableWireRow nbits w with
  | some _ => s.withEvent (.rxPush ((tableBytes nbits w).getD 0 0#8))
  | none => (s.withBody (tableBody s.cfg (tableBytes nbits w))).withEvent (.tick 0#16)

/-- One step: the next event if there is one, else nothing happens (notes/assumptions/2.md); a block
whose parameters break 00_scope.md R8 faults (notes/assumptions/1.md). -/
def stepState (s : State) : Result :=
  if configOk s.cfg then
    match s.env.inputs with
    | [] => .next (s.begin [])
    | ev :: rest => react ev (s.begin rest)
  else .fault .badConfiguration

end Sys2Proof.Machine
end

