-- ==== Sys2Proof/Machine/Step.lean ====
section
/-! DEFINITION. The step of the machine, and how the host places an instruction before it. -/

namespace Sys2Proof.Machine

/-- One step of the block: one atomic event (00_scope.md R13). -/
def step (s : State) : Host.Outcome State Fault Refusal := stepState s

/-- `s` with the instruction whose bits are `w` placed so that the next step runs it
(notes/assumptions/14.md). -/
def State.withFetchWord (s : State) (nbits w : Nat) : State := placeWord nbits w s

end Sys2Proof.Machine
end

