-- ==== Sys2Proof/Safety.lean ====
section
/-! DEFINITION. The invariant of the block, its parts named after the spec's own invariants, and the words
in which runs of many events are spoken of. -/

namespace Sys2Proof.Machine

/-- ReceivedFrame: 10_state.md R21 (size of `RXBUF`), R24 (the counter's bound), R25, and
41_frame_receiver.md R149 (a full buffer only in `Framing`). -/
abbrev ReceivedOk (c : Config) (r : Received) : Prop :=
  r.buffer.length = c.rxCap ∧ r.length ≤ c.rxCap ∧
  (r.state = .idle → r.length = 0 ∧ r.timeoutCounter = 0) ∧
  (r.state = .complete → 1 ≤ r.length) ∧
  (r.state = .escaping ∨ r.state = .complete → r.length < c.rxCap) ∧
  r.timeoutCounter ≤ c.rxTimeout

/-- TransmitFrame: 10_state.md R27 (size of `TXBUF`), R29, and 42_frame_transmitter.md R169 (the size of
a loaded frame). -/
abbrev TransmitOk (c : Config) (t : Transmit) : Prop :=
  t.buffer.length = c.txCap ∧ t.cursor ≤ t.endIndex ∧ t.endIndex ≤ c.txCap ∧
  (t.state ≠ .idle → 2 ≤ t.endIndex ∧ t.endIndex ≤ c.maxPayload + 2)

/-- Session: 10_state.md R35 (`slaveSeq` is never 0), R36, R37, R38, R39, R40. -/
abbrev SessionOk (c : Config) (x : Session) : Prop :=
  x.slaveSeq ≠ 0#4 ∧ x.passkey = c.passkey ∧ x.logWatchdogLimit = c.logWatchdogLimit ∧
  x.versionInfo = ⟨c.versionAddr, c.versionLen⟩ ∧
  1 ≤ x.logIntervalPeriod.toNat ∧
  x.pendingBlock.length.toNat ≤ c.maxPayload ∧ addrFits c x.pendingBlock.address = true ∧
  (x.isLoggingEnabled = true → x.logTimeoutCounter < x.logWatchdogLimit.toNat) ∧
  x.logTimeoutCounter < x.logWatchdogLimit.toNat + 65535 ∧
  (x.isLoggingEnabled = true → x.logIntervalCounter < x.logIntervalPeriod.toNat) ∧
  x.logIntervalCounter < 65535

/-- LogTargets: 10_state.md R41 to R43. R41 asks a legal size of the entries below `stagedCount` only; that
every entry is legal is the model's, by the values of notes/assumptions/8.md after `RESET`. -/
abbrev TargetsOk (c : Config) (t : LogTargets) : Prop :=
  t.entries.length = c.nTargets ∧ t.committedCount ≤ c.nTargets ∧ t.stagedCount ≤ c.nTargets ∧
  sizeSum t.entries t.stagedCount ≤ c.maxPayload ∧
  ∀ e ∈ t.entries, addrFits c e.address = true ∧ sizeAllowed c e.size = true

/-- Device memory is in its canonical form and inside the address space of `8·ADDR_W` bits
(10_state.md R45). -/
abbrev MemoryOk (c : Config) (m : Memory) : Prop :=
  Memory.wf m = true ∧ ∀ cell ∈ m, cell.1 < 2 ^ (8 * c.addrW.bytes)

/-- The invariant of the block between events. -/
abbrev BlockOk (s : State) : Prop :=
  configOk s.cfg = true ∧ ReceivedOk s.cfg s.rx ∧ TransmitOk s.cfg s.tx ∧ SessionOk s.cfg s.session ∧
  TargetsOk s.cfg s.targets ∧ MemoryOk s.cfg s.env.memory

/-- A run of `n` events that stops nowhere (60_exceptions.md R266: "nothing above is fatal to the
engine"). -/
def SafeRun (n : Nat) (s : State) : Prop := ∃ t, Host.Core.run Sys2Proof.core n s = .next t

/-- The events by which a host sends a body: one `RX_PUSH` for each byte of its wire form
(30_encoding.md R90). -/
def sendEvents (body : List Byte) : List Event := (wireOf body).map .rxPush

/-- The results of `n` pulls, and the transmitter afterwards. -/
def pulls : Nat → Transmit → List (Option Byte) × Transmit
  | 0, t => ([], t)
  | n + 1, t => ((pull t).1 :: (pulls n (pull t).2).1, (pulls n (pull t).2).2)

/-- A byte that travels escaped (30_encoding.md R92). -/
def isSpecial (b : Byte) : Bool := decide (b = 0xC0#8 ∨ b = 0xDB#8)

/-- The answers the next `n` accesses get: the environment's list, continued by plain memory
(notes/assumptions/3.md). -/
def comingAnswers (n : Nat) (s : State) : List AccessorAnswer :=
  (List.range n).map fun i => s.env.accessor.getD i .memory

/-- The bytes that a list of reads is to yield, given the coming answers (20_memory.md R62, R66). -/
def oracleBytes (reads : List (Addr × Width)) (s : State) : List Byte :=
  (List.zipWith (fun r a => (readAnswer s.cfg s.env.memory r.1 r.2 a).getD []) reads
    (comingAnswers reads.length s)).flatten

/-- The transactions that a list of reads is to make at port MEM, given the coming answers. -/
def oraclePorts (reads : List (Addr × Width)) (s : State) : List PortEvent :=
  List.zipWith (fun r a => .memRead r.1 r.2 (readAnswer s.cfg s.env.memory r.1 r.2 a)) reads
    (comingAnswers reads.length s)

/-- No access among the next `n` is answered with `Fault`. -/
def noFault (n : Nat) (s : State) : Prop := ∀ a ∈ comingAnswers n s, a ≠ .fault

/-- The first `Fault` among the coming answers is that of access `k`. -/
def firstFaultAt (k : Nat) (s : State) : Prop := noFault k s ∧ s.env.accessor[k]? = some .fault

/-- The instruction a completed frame holds, if the next event is the `TICK` that consumes it. -/
def consumes (s : State) (i : Instr) : Prop :=
  (∃ e rest, s.env.inputs = .tick e :: rest) ∧ s.rx.state = .complete ∧
    decode s.cfg .body s.rxBody = .ok i

end Sys2Proof.Machine
end

