-- ==== Sys2Proof/Certificates/Slice0/Obligations.lean ====
section
/-! DEFINITION. The statements for the provers. Clauses are written out in the fields of the state, so
that they can be held beside the rules of spec/ they come from. -/

open Sys2Proof Sys2Proof.Machine

/-! ### Reset -/

/-- 10_state.md section 8: the table of reset values, for the reference configuration. Most of its values
are the spec's own decisions (92_eei_decisions.md D14, D27; notes/assumptions/9.md). -/
def Obligations.ResetLeavesTheTableValues : Prop :=
  State.reset.rx.state = .idle ∧ State.reset.rx.length = 0 ∧ State.reset.rx.timeoutCounter = 0 ∧
  State.reset.tx.state = .idle ∧ State.reset.tx.cursor = 0 ∧ State.reset.tx.endIndex = 0 ∧
  State.reset.session =
    { isAuthenticated := false, isLoggingEnabled := false, isReplyPending := false, masterSeq := 0#4,
      slaveSeq := 1#4, passkey := State.reset.cfg.passkey, logTimeoutCounter := 0,
      logWatchdogLimit := State.reset.cfg.logWatchdogLimit, logIntervalCounter := 0,
      logIntervalPeriod := State.reset.cfg.logPeriodDefault, pendingBlock := ⟨0#32, 0#16⟩,
      versionInfo := ⟨State.reset.cfg.versionAddr, State.reset.cfg.versionLen⟩ } ∧
  State.reset.targets.committedCount = 0 ∧ State.reset.targets.stagedCount = 0

/-- 70_reset_and_hazards.md section 1: the event `RESET`, at any time, sets every field to its value and
does nothing else: the parameters, device memory and the other coming inputs stay, nothing goes out at
any port and no error is absorbed. The values are the spec's own decisions (92_eei_decisions.md D14, D27;
notes/assumptions/9.md). -/
def Obligations.ResetEventRestoresEveryField : Prop :=
  ∀ (s : State) (rest : List Event), configOk s.cfg = true → s.env.inputs = .reset :: rest →
    ∃ t, step s = .next t ∧ t.cfg = s.cfg ∧ t.env = { s.env with inputs := rest } ∧
      t.trace.ports = [] ∧ t.trace.absorbed = [] ∧
      t.rx.state = .idle ∧ t.rx.length = 0 ∧ t.rx.timeoutCounter = 0 ∧
      t.tx.state = .idle ∧ t.tx.cursor = 0 ∧ t.tx.endIndex = 0 ∧
      t.session =
        { isAuthenticated := false, isLoggingEnabled := false, isReplyPending := false,
          masterSeq := 0#4, slaveSeq := 1#4, passkey := s.cfg.passkey, logTimeoutCounter := 0,
          logWatchdogLimit := s.cfg.logWatchdogLimit, logIntervalCounter := 0,
          logIntervalPeriod := s.cfg.logPeriodDefault, pendingBlock := ⟨0#32, 0#16⟩,
          versionInfo := ⟨s.cfg.versionAddr, s.cfg.versionLen⟩ } ∧
      t.targets.committedCount = 0 ∧ t.targets.stagedCount = 0

/-- 70_reset_and_hazards.md section 1: directly after `RESET` a pull yields nothing, nothing waits for the
transport, a tick of any length changes nothing, and a byte other than the delimiter changes nothing. -/
def Obligations.NothingHappensAfterResetUntilADelimiter : Prop :=
  ∀ (c : Config) (env : Environment) (e : Half) (b : Byte),
    (txPull (State.initial c env)).tx = (State.initial c env).tx ∧
    (txPull (State.initial c env)).trace.ports = [.pulled none] ∧
    (State.initial c env).isTransmitReady = false ∧
    tick e (State.initial c env) = .next (State.initial c env) ∧
    (b ≠ 0xC0#8 → rxPush b (State.initial c env) = .next (State.initial c env))

/-! ### The receiver -/

/-- 41_frame_receiver.md R141: the ten rows of the table of `RX_PUSH(b)`, where the guard of R149 does
not act. -/
def Obligations.ReceiverFollowsItsTransitionTable : Prop :=
  ∀ s : State,
    ¬((s.rx.state = .framing ∨ s.rx.state = .escaping) ∧ s.cfg.rxCap ≤ s.rx.length) →
    (s.rx.state = .idle →
      rxPush 0xC0#8 s =
        .next { s with rx := { s.rx with state := .framing, length := 0, timeoutCounter := 0 } }) ∧
    (s.rx.state = .idle → ∀ b, b ≠ 0xC0#8 → rxPush b s = .next s) ∧
    (s.rx.state = .framing → rxPush 0xDB#8 s = .next { s with rx := { s.rx with state := .escaping } }) ∧
    (s.rx.state = .framing → s.rx.length = 0 →
      rxPush 0xC0#8 s = .next { s with rx := { s.rx with timeoutCounter := 0 } }) ∧
    (s.rx.state = .framing → 0 < s.rx.length →
      rxPush 0xC0#8 s = .next { s with rx := { s.rx with state := .complete } }) ∧
    (s.rx.state = .framing → ∀ b, b ≠ 0xC0#8 → b ≠ 0xDB#8 →
      rxPush b s =
        .next { s with rx := { s.rx with
          buffer := s.rx.buffer.set s.rx.length b, length := s.rx.length + 1 } }) ∧
    (s.rx.state = .escaping →
      rxPush 0xDC#8 s =
        .next { s with rx := { s.rx with
          state := .framing, buffer := s.rx.buffer.set s.rx.length 0xC0#8, length := s.rx.length + 1 } }) ∧
    (s.rx.state = .escaping →
      rxPush 0xDD#8 s =
        .next { s with rx := { s.rx with
          state := .framing, buffer := s.rx.buffer.set s.rx.length 0xDB#8, length := s.rx.length + 1 } }) ∧
    (s.rx.state = .escaping → ∀ b, b ≠ 0xDC#8 → b ≠ 0xDD#8 →
      rxPush b s =
        .next { s with
          rx := { s.rx with state := .idle, length := 0, timeoutCounter := 0 }
          trace := { s.trace with absorbed := s.trace.absorbed ++ [.framing] } }) ∧
    (s.rx.state = .complete → ∀ b, rxPush b s = .next s)

/-- 41_frame_receiver.md sections 2 and 5: what each of the four special bytes does in each state of the
receiver. -/
def Obligations.SpecialBytesFollowTheirRows : Prop :=
  ∀ s : State, s.rx.length < s.cfg.rxCap →
    (s.rx.state = .idle →
      exec .fend s =
        .next { s with rx := { s.rx with state := .framing, length := 0, timeoutCounter := 0 } } ∧
      exec .fesc s = .next s ∧ exec .tfend s = .next s ∧ exec .tfesc s = .next s) ∧
    (s.rx.state = .framing →
      exec .fend s =
        .next { s with rx := if s.rx.length = 0 then { s.rx with timeoutCounter := 0 }
          else { s.rx with state := .complete } } ∧
      exec .fesc s = .next { s with rx := { s.rx with state := .escaping } } ∧
      exec .tfend s =
        .next { s with rx := { s.rx with
          buffer := s.rx.buffer.set s.rx.length 0xDC#8, length := s.rx.length + 1 } } ∧
      exec .tfesc s =
        .next { s with rx := { s.rx with
          buffer := s.rx.buffer.set s.rx.length 0xDD#8, length := s.rx.length + 1 } }) ∧
    (s.rx.state = .escaping →
      exec .fend s =
        .next { s with
          rx := { s.rx with state := .idle, length := 0, timeoutCounter := 0 }
          trace := { s.trace with absorbed := s.trace.absorbed ++ [.framing] } } ∧
      exec .fesc s =
        .next { s with
          rx := { s.rx with state := .idle, length := 0, timeoutCounter := 0 }
          trace := { s.trace with absorbed := s.trace.absorbed ++ [.framing] } } ∧
      exec .tfend s =
        .next { s with rx := { s.rx with
          state := .framing, buffer := s.rx.buffer.set s.rx.length 0xC0#8, length := s.rx.length + 1 } } ∧
      exec .tfesc s =
        .next { s with rx := { s.rx with
          state := .framing, buffer := s.rx.buffer.set s.rx.length 0xDB#8, length := s.rx.length + 1 } }) ∧
    (s.rx.state = .complete →
      exec .fend s = .next s ∧ exec .fesc s = .next s ∧ exec .tfend s = .next s ∧ exec .tfesc s = .next s)

/-- 41_frame_receiver.md section 3: a full buffer inside a frame abandons it, and the byte in hand is then
examined from `Idle`. -/
def Obligations.OverflowAbandonsTheFrame : Prop :=
  ∀ (s : State) (b : Byte), s.rx.state = .framing ∨ s.rx.state = .escaping →
    s.cfg.rxCap ≤ s.rx.length →
    rxPush b s =
      .next { s with
        rx := { s.rx with
          state := if b = 0xC0#8 then .framing else .idle, length := 0, timeoutCounter := 0 }
        trace := { s.trace with absorbed := s.trace.absorbed ++ [.framing] } }

/-- 41_frame_receiver.md section 4: step T1. Inside a frame the counter takes `e`; above `RX_TIMEOUT` the
receiver is emptied; at exactly `RX_TIMEOUT` it is not; in `Idle` and `Complete` nothing happens. -/
def Obligations.ReceiveTimeoutIsStrict : Prop :=
  ∀ (s : State) (e : Half),
    (s.rx.state = .framing ∨ s.rx.state = .escaping →
      (s.rx.timeoutCounter + e.toNat ≤ s.cfg.rxTimeout →
        rxTimeout e s = { s with rx := { s.rx with timeoutCounter := s.rx.timeoutCounter + e.toNat } }) ∧
      (s.cfg.rxTimeout < s.rx.timeoutCounter + e.toNat →
        rxTimeout e s =
          { s with
            rx := { s.rx with state := .idle, length := 0, timeoutCounter := 0 }
            trace := { s.trace with absorbed := s.trace.absorbed ++ [.framing] } })) ∧
    (s.rx.state = .idle ∨ s.rx.state = .complete → rxTimeout e s = s)

/-! ### The transmitter -/

/-- 42_frame_transmitter.md R161: the seven rows of the table of `TX_PULL`. -/
def Obligations.TransmitterFollowsItsTransitionTable : Prop :=
  ∀ s : State,
    (s.tx.state = .ready →
      txPull s =
        { s with
          tx := { s.tx with state := .busy, cursor := 0 }
          trace := { s.trace with ports := s.trace.ports ++ [.pulled (some 0xC0#8)] } }) ∧
    (s.tx.state = .busy → s.tx.cursor < s.tx.endIndex → s.tx.buffer[s.tx.cursor]? = some 0xC0#8 →
      txPull s =
        { s with
          tx := { s.tx with buffer := s.tx.buffer.set s.tx.cursor 0xDC#8 }
          trace := { s.trace with ports := s.trace.ports ++ [.pulled (some 0xDB#8)] } }) ∧
    (s.tx.state = .busy → s.tx.cursor < s.tx.endIndex → s.tx.buffer[s.tx.cursor]? = some 0xDB#8 →
      txPull s =
        { s with
          tx := { s.tx with buffer := s.tx.buffer.set s.tx.cursor 0xDD#8 }
          trace := { s.trace with ports := s.trace.ports ++ [.pulled (some 0xDB#8)] } }) ∧
    (∀ v, s.tx.state = .busy → s.tx.cursor < s.tx.endIndex → s.tx.buffer[s.tx.cursor]? = some v →
      v ≠ 0xC0#8 → v ≠ 0xDB#8 →
      txPull s =
        { s with
          tx := { s.tx with cursor := s.tx.cursor + 1 }
          trace := { s.trace with ports := s.trace.ports ++ [.pulled (some v)] } }) ∧
    (s.tx.state = .busy → s.tx.endIndex ≤ s.tx.cursor →
      txPull s =
        { s with
          tx := { s.tx with state := .closing }
          trace := { s.trace with ports := s.trace.ports ++ [.pulled (some 0xC0#8)] } }) ∧
    (s.tx.state = .closing →
      txPull s =
        { s with
          tx := { s.tx with state := .idle }
          trace := { s.trace with ports := s.trace.ports ++ [.pulled none] } }) ∧
    (s.tx.state = .idle →
      txPull s = { s with trace := { s.trace with ports := s.trace.ports ++ [.pulled none] } })

/-- 42_frame_transmitter.md section 4: a full drain of a loaded frame yields its wire form, then `None`,
and leaves the transmitter idle; the wire form has `n + 2 + k` bytes for `k` special bytes, and between its
delimiters no delimiter and no escape but before an escape code. -/
def Obligations.DrainYieldsTheWireForm : Prop :=
  ∀ t : Transmit, t.state = .ready → t.endIndex ≤ t.buffer.length →
    (pulls ((wireOf (t.buffer.take t.endIndex)).length + 1) t).1 =
      (wireOf (t.buffer.take t.endIndex)).map some ++ [none] ∧
    (pulls ((wireOf (t.buffer.take t.endIndex)).length + 1) t).2.state = .idle ∧
    (wireOf (t.buffer.take t.endIndex)).length =
      t.endIndex + 2 + ((t.buffer.take t.endIndex).filter isSpecial).length ∧
    ∃ inner : List Byte, wireOf (t.buffer.take t.endIndex) = [0xC0#8] ++ inner ++ [0xC0#8] ∧
      0xC0#8 ∉ inner ∧
      ∀ k, inner[k]? = some 0xDB#8 → inner[k + 1]? = some 0xDC#8 ∨ inner[k + 1]? = some 0xDD#8

/-! ### CRC -/

/-- 40_crc8.md section 3: for every table the parameters allow, a body closed with its own CRC has CRC 0;
and with the reference table no other closing byte does. -/
def Obligations.CrcClosesABodyAndOnlyItself : Prop :=
  (∀ (c : Config) (s : List Byte), configOk c = true → crc8 c.crcTable (s ++ [crc8 c.crcTable s]) = 0#8) ∧
  (∀ (s : List Byte) (x : Byte),
    crc8 referenceCrcTable (s ++ [x]) = 0#8 ↔ x = crc8 referenceCrcTable s)

/-- 40_crc8.md section 2: the printed table is the one the polynomial generates, and a permutation. -/
def Obligations.ReferenceTableComesFromThePolynomial : Prop :=
  referenceCrcTable = crcTableOf 0x95#8 ∧ referenceCrcTable.length = 256 ∧
  ∀ v : Byte, v ∈ referenceCrcTable

/-! ### Encoding -/

/-- 30_encoding.md section 4, the tables `WRITE_SIZE` and `CFG_COUNT`: they are what the payload layouts
give. -/
def Obligations.LengthTablesFollowThePayloadLayouts : Prop :=
  ∀ (c : Config) (len : Nat),
    (∀ z : Width, writeSize c len = some z ↔ sizeAllowed c z = true ∧ len = 1 + c.addrW.bytes + z.bytes) ∧
    (∀ n : Nat, cfgCount c len = some n ↔ len = 1 + n * (1 + c.addrW.bytes))

/-- 30_encoding.md: what a host encodes is what the block decodes, for every well-formed instruction, at
its layer, in every configuration the parameters allow. -/
def Obligations.DecodeOfEncodeIsTheInstruction : Prop :=
  ∀ (c : Config) (i : Instr) (layer : Layer), configOk c = true → i.wellFormed c = true →
    i.layer = some layer → decode c layer (encode c i) = .ok i

/-- 30_encoding.md: with the reference table no two byte sequences decode to one instruction: encoding
what was decoded gives the bytes back, and its operands fit. -/
def Obligations.EncodeOfDecodeIsTheBytes : Prop :=
  ∀ (c : Config) (layer : Layer) (bytes : List Byte) (i : Instr), c.crcTable = referenceCrcTable →
    decode c layer bytes = .ok i →
    encode c i = bytes ∧ i.operandsOk c = true ∧ i.layer = some layer

/-- 30_encoding.md: a few bodies and wire bytes, written out from the layouts, and what they decode to. -/
def Obligations.WordsOfTheSpecDecodeToTheirInstructions : Prop :=
  decode referenceConfig .body [0x11#8, 0x13#8] = .ok (.logstart 1#4 []) ∧
  decode referenceConfig .body [0x36#8, 0xEF#8, 0xBE#8, 0xAD#8, 0xDE#8, 0xBD#8] =
    .ok (.auth 3#4 (.fields 0xDEADBEEF#32)) ∧
  decode referenceConfig .body
      [0x24#8, 0x04#8, 0x10#8, 0x00#8, 0x00#8, 0x20#8, 0x44#8, 0x33#8, 0x22#8, 0x11#8, 0xBB#8] =
    .ok (.write 2#4 (.fields ⟨.w4, 0x04#8, 0x20000010#32, [0x44#8, 0x33#8, 0x22#8, 0x11#8]⟩)) ∧
  decode referenceConfig .body
      [0x05#8, 0x30#8, 0x04#8, 0x00#8, 0x00#8, 0x00#8, 0x20#8, 0x66#8] =
    .ok (.logcfg 0#4 (.fields ⟨0x30#8, [⟨0x04#8, 0x20000000#32⟩]⟩)) ∧
  decode referenceConfig .body
      [0x57#8, 0x10#8, 0x00#8, 0x00#8, 0x20#8, 0x04#8, 0x00#8, 0x5B#8] =
    .ok (.dump 5#4 (.fields ⟨0x20000010#32, 4#16⟩)) ∧
  decode referenceConfig .wire [0xDB#8] = .ok .fesc

/-! ### Dispatch -/

/-- The next step runs the instruction that was received. A completed frame and a `TICK`: `exec` of the
decoded request, then the receiver is cleared and T3 (`exec .reply`), T4 and T5 follow; a sample that falls
due in T5 is `exec .telemetry`. A byte that is one of the four special ones: `exec` of it. With no event to
come nothing happens (the model's choice, notes/assumptions/2.md). -/
def Obligations.StepRunsTheDecodedInstruction : Prop :=
  ∀ s : State, configOk s.cfg = true →
    (∀ (e : Half) (rest : List Event) (i : Instr), s.env.inputs = .tick e :: rest →
      s.rx.state = .complete → decode s.cfg .body s.rxBody = .ok i →
      step s =
        andThen (exec i (s.begin rest)) fun s1 =>
        andThen (exec .reply s1.rxReset) fun s2 => sampler e (watchdog e s2)) ∧
    (∀ (b : Byte) (rest : List Event) (i : Instr), s.env.inputs = .rxPush b :: rest →
      decode s.cfg .wire [b] = .ok i → step s = exec i (s.begin rest)) ∧
    (∀ e : Half, s.session.isLoggingEnabled = true →
      s.session.logIntervalPeriod.toNat ≤ s.session.logIntervalCounter + e.toNat →
      sampler e s = exec .telemetry { s with session := { s.session with logIntervalCounter := 0 } }) ∧
    (s.env.inputs = [] → step s = .next { s with trace := ⟨[], []⟩ })

/-- 43_dispatch_and_reply.md section 2: a completed body that is too short (the spec's decision,
92_eei_decisions.md D10), or whose CRC is not 0, is dropped in T2 and changes nothing but the receiver,
which is cleared. -/
def Obligations.ShortAndCorruptBodiesAreDropped : Prop :=
  ∀ s : State, s.rx.state = .complete →
    (s.rxBody.length < 2 ∨ crc8 s.cfg.crcTable s.rxBody ≠ 0#8) →
    consume s =
      .next { s with
        rx := { s.rx with state := .idle, length := 0, timeoutCounter := 0 }
        trace := { s.trace with absorbed := s.trace.absorbed ++ [.integrity] } }

/-- 43_dispatch_and_reply.md R184: unauthenticated, every request but AUTH is an AuthError and changes no
state, whatever its payload; `pendingBlock` is not cleared. -/
def Obligations.GateRefusesAllButAuth : Prop :=
  ∀ (i : Instr) (op : Nibble) (s : State), i.opcode = some op → op ≠ 0x6#4 →
    s.session.isAuthenticated = false →
    exec i s = .next { s with trace := { s.trace with absorbed := s.trace.absorbed ++ [.auth] } }

/-- 43_dispatch_and_reply.md R187: a request is either accepted, and then `masterSeq` is its nibble and the
watchdog counter 0, or ends in one Error, and then neither changes, nor does `isReplyPending`; in neither
case does `slaveSeq` change. -/
def Obligations.OnlyAcceptedRequestsAdoptTheSequence : Prop :=
  ∀ (i : Instr) (op : Nibble) (s t : State), i.opcode = some op → exec i s = .next t →
    t.session.slaveSeq = s.session.slaveSeq ∧
    ((t.trace.absorbed = s.trace.absorbed ∧ t.session.masterSeq = i.masterSeq ∧
        t.session.logTimeoutCounter = 0) ∨
      (∃ cls, t.trace.absorbed = s.trace.absorbed ++ [cls] ∧
        t.session.masterSeq = s.session.masterSeq ∧
        t.session.logTimeoutCounter = s.session.logTimeoutCounter ∧
        t.session.isReplyPending = s.session.isReplyPending))

/-- 43_dispatch_and_reply.md section 3: an Error changes no state, but for the four exceptions:
`pendingBlock` cleared before a handler, the authentication flag of AUTH, the two counts (and the array) of
LOGCFG, the logging flag (and what the capability did) of BYPASS. -/
def Obligations.ErrorsChangeNothingButTheFourExceptions : Prop :=
  ∀ (i : Instr) (op : Nibble) (s t : State), i.opcode = some op → exec i s = .next t →
    t.trace.absorbed ≠ s.trace.absorbed →
    t.cfg = s.cfg ∧ t.rx = s.rx ∧ t.tx = s.tx ∧ t.env.inputs = s.env.inputs ∧
    (op ≠ 0x5#4 → t.targets = s.targets) ∧
    (op = 0x5#4 → s.session.isAuthenticated = true →
      t.targets.stagedCount = 0 ∧ t.targets.committedCount = 0) ∧
    (op ≠ 0x8#4 → t.env.memory = s.env.memory) ∧
    t.session =
      { s.session with
        pendingBlock := t.session.pendingBlock
        isAuthenticated := t.session.isAuthenticated
        isLoggingEnabled := t.session.isLoggingEnabled } ∧
    (t.session.pendingBlock = s.session.pendingBlock ∨ t.session.pendingBlock = ⟨0#32, 0#16⟩) ∧
    (op ≠ 0x6#4 → t.session.isAuthenticated = s.session.isAuthenticated) ∧
    (op ≠ 0x8#4 → t.session.isLoggingEnabled = s.session.isLoggingEnabled)

/-! ### The commands -/

/-- 44_commands.md, opcode 0x1. -/
def Obligations.LogstartStartsLoggingOnce : Prop :=
  ∀ (m : Nibble) (p : List Byte) (s : State), s.session.isAuthenticated = true →
    (p ≠ [] →
      exec (.logstart m p) s =
        .next { s with
          session := { s.session with pendingBlock := ⟨0#32, 0#16⟩ }
          trace := { s.trace with absorbed := s.trace.absorbed ++ [.validation] } }) ∧
    (p = [] → s.session.isLoggingEnabled = true →
      exec (.logstart m p) s =
        .next { s with session := { s.session with
          pendingBlock := ⟨0#32, 0#16⟩, masterSeq := m, logTimeoutCounter := 0 } }) ∧
    (p = [] → s.session.isLoggingEnabled = false →
      exec (.logstart m p) s =
        .next { s with session := { s.session with
          isLoggingEnabled := true, logIntervalCounter := 0, pendingBlock := ⟨0#32, 0#16⟩,
          masterSeq := m, logTimeoutCounter := 0, isReplyPending := true } })

/-- 44_commands.md, opcode 0x2: whatever the payload and whether or not logging was on. -/
def Obligations.LogstopStopsLoggingUnconditionally : Prop :=
  ∀ (m : Nibble) (p : List Byte) (s : State), s.session.isAuthenticated = true →
    exec (.logstop m p) s =
      .next { s with session := { s.session with
        isLoggingEnabled := false, pendingBlock := ⟨0#32, 0#16⟩,
        masterSeq := m, logTimeoutCounter := 0, isReplyPending := true } }

/-- 44_commands.md, opcode 0x3: a period of 0 and a payload that is not 2 bytes are Errors. -/
def Obligations.LogperiodSetsThePeriodAndStopsLogging : Prop :=
  ∀ (m : Nibble) (s : State), s.session.isAuthenticated = true →
    (∀ period : Half, period ≠ 0#16 →
      exec (.logperiod m (.fields period)) s =
        .next { s with session := { s.session with
          logIntervalPeriod := period, isLoggingEnabled := false, pendingBlock := ⟨0#32, 0#16⟩,
          masterSeq := m, logTimeoutCounter := 0, isReplyPending := true } }) ∧
    (∀ ops : Operands Half, ops = .fields 0#16 ∨ (∃ p, ops = .badLength p) →
      exec (.logperiod m ops) s =
        .next { s with
          session := { s.session with pendingBlock := ⟨0#32, 0#16⟩ }
          trace := { s.trace with absorbed := s.trace.absorbed ++ [.validation] } })

/-- 44_commands.md, opcode 0x4: one `MemWrite` of the selected width with the data in wire order; a reply
unless logging is on; on `Fault` nothing is written; on a size mismatch or an unsupported length no access
is made. The MODEL's choice is where the bytes of an accepted access then stand: in the model's device
memory (notes/assumptions/3.md), wrapping at the top of the address space (notes/assumptions/5.md). -/
def Obligations.WriteMakesOneAccess : Prop :=
  ∀ (m : Nibble) (s : State), s.session.isAuthenticated = true →
    (∀ f : WriteFields, f.sizeByte.toNat = f.width.bytes → noFault 1 s →
      exec (.write m (.fields f)) s =
        .next { s with
          session := { s.session with
            pendingBlock := ⟨0#32, 0#16⟩, masterSeq := m, logTimeoutCounter := 0
            isReplyPending := !s.session.isLoggingEnabled || s.session.isReplyPending }
          env := { s.env with
            memory := memPutBytes s.cfg f.address 0 f.data s.env.memory
            accessor := s.env.accessor.tail }
          trace := { s.trace with
            ports := s.trace.ports ++ [.memWrite f.address f.width f.data true] } }) ∧
    (∀ f : WriteFields, f.sizeByte.toNat = f.width.bytes → firstFaultAt 0 s →
      exec (.write m (.fields f)) s =
        .next { s with
          session := { s.session with pendingBlock := ⟨0#32, 0#16⟩ }
          env := { s.env with accessor := s.env.accessor.tail }
          trace := ⟨s.trace.ports ++ [.memWrite f.address f.width f.data false],
            s.trace.absorbed ++ [.access]⟩ }) ∧
    (∀ ops : Operands WriteFields,
      (∃ p, ops = .badLength p) ∨ (∃ f, ops = .fields f ∧ f.sizeByte.toNat ≠ f.width.bytes) →
      exec (.write m ops) s =
        .next { s with
          session := { s.session with pendingBlock := ⟨0#32, 0#16⟩ }
          trace := { s.trace with absorbed := s.trace.absorbed ++ [.validation] } })

/-- 20_memory.md section 2: data byte `k` of an accepted WRITE is the byte at `address + k`. Two things are
the MODEL's choice and not the spec's. That the bytes can be read back from device memory: the accessor
keeps a write that it does not answer with `Fault`, as a plain byte array does, which R65 makes a condition
and R62 does not require (notes/assumptions/3.md). That `address + k` wraps at the top of the address
space: R68 gives the address of a write no arithmetic, and what one wide access does there is the
accessor's (notes/assumptions/5.md). -/
def Obligations.WrittenBytesReadBackInWireOrder : Prop :=
  ∀ (m : Nibble) (f : WriteFields) (s t : State), s.session.isAuthenticated = true →
    f.sizeByte.toNat = f.width.bytes → f.data.length = f.width.bytes → s.env.memory.wf = true →
    noFault 1 s → exec (.write m (.fields f)) s = .next t →
    memGetBytes s.cfg t.env.memory f.address f.width.bytes = f.data ∧
    ∀ k b, f.data[k]? = some b →
      memGet t.env.memory ((f.address.toNat + k) % 2 ^ (8 * s.cfg.addrW.bytes)) = b

/-- 44_commands.md, opcode 0x5: entries that all have a legal size, fit the table and do not exceed
`MAX_PAYLOAD` are stored after the staged ones (from 0 with the start flag), committed with the end flag,
and logging goes off. -/
def Obligations.LogcfgStagesAndCommits : Prop :=
  ∀ (m : Nibble) (f : CfgFields) (sizes : List Width) (s : State),
    s.session.isAuthenticated = true → s.targets.entries.length = s.cfg.nTargets →
    (f.entries.map fun e => widthOfByte s.cfg e.sizeByte) = sizes.map some →
    let base := if f.flags.getLsbD 4 then 0 else s.targets.stagedCount
    let total := base + f.entries.length
    let stored := s.targets.entries.take base ++
      List.zipWith (fun e w => (⟨e.address, w⟩ : Target)) f.entries sizes ++
      s.targets.entries.drop total
    total ≤ s.cfg.nTargets → sizeSum stored total ≤ s.cfg.maxPayload →
    exec (.logcfg m (.fields f)) s =
      .next { s with
        session := { s.session with
          isLoggingEnabled := false, pendingBlock := ⟨0#32, 0#16⟩,
          masterSeq := m, logTimeoutCounter := 0, isReplyPending := true }
        targets := ⟨stored, if f.flags.getLsbD 5 then total else s.targets.committedCount, total⟩ }

/-- 44_commands.md, opcode 0x5: a length in no row, more entries than the table holds, a size byte outside
`SIZES`, or a total above `MAX_PAYLOAD`: both counts become 0, and only `pendingBlock` and the uncounted
array change besides; logging stays as it was. -/
def Obligations.LogcfgErrorsDiscardTheConfiguration : Prop :=
  ∀ (m : Nibble) (ops : Operands CfgFields) (s : State), s.session.isAuthenticated = true →
    s.targets.entries.length = s.cfg.nTargets →
    ((∃ p, ops = .badLength p) ∨
      ∃ f base, ops = .fields f ∧
        base = (if f.flags.getLsbD 4 then 0 else s.targets.stagedCount) ∧
        (s.cfg.nTargets < base + f.entries.length ∨
          (∃ e ∈ f.entries, widthOfByte s.cfg e.sizeByte = none) ∨
          ∃ sizes : List Width, (f.entries.map fun e => widthOfByte s.cfg e.sizeByte) = sizes.map some ∧
            s.cfg.maxPayload <
              sizeSum s.targets.entries base + (sizes.map Width.bytes).sum)) →
    ∃ array, exec (.logcfg m ops) s =
      .next { s with
        session := { s.session with pendingBlock := ⟨0#32, 0#16⟩ }
        targets := ⟨array, 0, 0⟩
        trace := { s.trace with absorbed := s.trace.absorbed ++ [.validation] } }

/-- 44_commands.md, opcode 0x6: at either level; a matching key authenticates, names the version block
(cut to `MAX_PAYLOAD`) and stops logging; another key logs out and leaves logging; a payload that is not 4
bytes leaves the level. -/
def Obligations.AuthSetsTheLevelByTheKey : Prop :=
  ∀ (m : Nibble) (s : State),
    exec (.auth m (.fields s.session.passkey)) s =
      .next { s with session := { s.session with
        isAuthenticated := true, isLoggingEnabled := false
        pendingBlock := ⟨s.session.versionInfo.address,
          BitVec.ofNat 16 (min s.session.versionInfo.length.toNat s.cfg.maxPayload)⟩
        masterSeq := m, logTimeoutCounter := 0, isReplyPending := true } } ∧
    (∀ key : Word, key ≠ s.session.passkey →
      exec (.auth m (.fields key)) s =
        .next { s with
          session := { s.session with isAuthenticated := false, pendingBlock := ⟨0#32, 0#16⟩ }
          trace := { s.trace with absorbed := s.trace.absorbed ++ [.auth] } }) ∧
    (∀ p : List Byte,
      exec (.auth m (.badLength p)) s =
        .next { s with
          session := { s.session with pendingBlock := ⟨0#32, 0#16⟩ }
          trace := { s.trace with absorbed := s.trace.absorbed ++ [.validation] } })

/-- 44_commands.md, opcode 0x7: no access is made; a length above `MAX_PAYLOAD` is refused, not cut. -/
def Obligations.DumpNamesTheRegion : Prop :=
  ∀ (m : Nibble) (s : State), s.session.isAuthenticated = true →
    (∀ f : DumpFields, f.length.toNat ≤ s.cfg.maxPayload →
      exec (.dump m (.fields f)) s =
        .next { s with session := { s.session with
          isLoggingEnabled := false, pendingBlock := ⟨f.address, f.length⟩
          masterSeq := m, logTimeoutCounter := 0, isReplyPending := true } }) ∧
    (∀ ops : Operands DumpFields,
      (∃ p, ops = .badLength p) ∨ (∃ f, ops = .fields f ∧ s.cfg.maxPayload < f.length.toNat) →
      exec (.dump m ops) s =
        .next { s with
          session := { s.session with pendingBlock := ⟨0#32, 0#16⟩ }
          trace := { s.trace with absorbed := s.trace.absorbed ++ [.validation] } })

/-- 44_commands.md, opcode 0x8: logging goes off whatever follows. Without a capability an Error and an
empty `pendingBlock`; with one, one call with the whole payload, whose answer (whatever it is) decides:
Success names its reply, cut to `MAX_PAYLOAD`; Error leaves `pendingBlock` empty. -/
def Obligations.BypassMirrorsTheCapability : Prop :=
  ∀ (m : Nibble) (p : List Byte) (s : State), s.session.isAuthenticated = true →
    (s.cfg.bypass = false →
      exec (.bypass m p) s =
        .next { s with
          session := { s.session with isLoggingEnabled := false, pendingBlock := ⟨0#32, 0#16⟩ }
          trace := { s.trace with absorbed := s.trace.absorbed ++ [.validation] } }) ∧
    (∀ answer, s.cfg.bypass = true → bypassAnswer p s = answer → answer.success = true →
      exec (.bypass m p) s =
        .next { s with
          session := { s.session with
            isLoggingEnabled := false
            pendingBlock :=
              ⟨BitVec.ofNat 32 (answer.address.toNat % 2 ^ (8 * s.cfg.addrW.bytes)),
                BitVec.ofNat 16 (min answer.length.toNat s.cfg.maxPayload)⟩
            masterSeq := m, logTimeoutCounter := 0, isReplyPending := true }
          env := { s.env with
            memory := memPutCells s.cfg answer.stores s.env.memory
            bypass := s.env.bypass.tail, freeCount := s.env.freeCount + 1 }
          trace := { s.trace with ports := s.trace.ports ++ [.bypassCall p answer] } }) ∧
    (∀ answer, s.cfg.bypass = true → bypassAnswer p s = answer → answer.success = false →
      exec (.bypass m p) s =
        .next { s with
          session := { s.session with isLoggingEnabled := false, pendingBlock := ⟨0#32, 0#16⟩ }
          env := { s.env with
            memory := memPutCells s.cfg answer.stores s.env.memory
            bypass := s.env.bypass.tail, freeCount := s.env.freeCount + 1 }
          trace := ⟨s.trace.ports ++ [.bypassCall p answer], s.trace.absorbed ++ [.validation]⟩ })

/-- 44_commands.md, Reserved opcodes: a reserved opcode, unauthenticated, is an AuthError, authenticated a
ValidationError (the latter by the spec's decision, 92_eei_decisions.md D12); no state changes and nothing
is sent. -/
def Obligations.ReservedOpcodesChangeNothing : Prop :=
  ∀ (m : Nibble) (p : List Byte) (s : State) (i : Instr),
    i ∈ [Instr.reserved0 m p, .reserved9 m p, .reservedA m p, .reservedB m p, .reservedC m p,
      .reservedD m p, .reservedE m p, .reservedF m p] →
    exec i s =
      .next { s with trace := { s.trace with absorbed := s.trace.absorbed ++
        [if s.session.isAuthenticated then .validation else .auth] } }

/-! ### Replies and telemetry -/

/-- 20_memory.md section 3 and section 5: the reads of a frame are made in order, each exactly once, each
answered by the environment; the first `Fault` ends them. -/
def Obligations.ReadsAreMadeOnceInOrder : Prop :=
  ∀ (reads : List (Addr × Width)) (s : State),
    (noFault reads.length s →
      readAll reads s =
        (some (oracleBytes reads s),
          { s with
            env := { s.env with accessor := s.env.accessor.drop reads.length }
            trace := { s.trace with ports := s.trace.ports ++ oraclePorts reads s } })) ∧
    (∀ k, k < reads.length → firstFaultAt k s →
      readAll reads s =
        (none,
          { s with
            env := { s.env with accessor := s.env.accessor.drop (k + 1) }
            trace := { s.trace with ports := s.trace.ports ++ oraclePorts (reads.take (k + 1)) s } }))

/-- 43_dispatch_and_reply.md section 4: step T3. A pending reply and an idle transmitter: the block is read
byte by byte, ascending and wrapping, and the frame of those bytes is loaded; `slaveSeq` advances and the
flag is cleared. Otherwise T3 does nothing. -/
def Obligations.ReplyLoadsThePendingBlock : Prop :=
  ∀ s : State,
    (∀ reads payload,
      reads = ((List.range s.session.pendingBlock.length.toNat).map fun k =>
        ((BitVec.ofNat 32 ((s.session.pendingBlock.address.toNat + k) % 2 ^ (8 * s.cfg.addrW.bytes)) :
          Addr), Width.w1)) →
      payload = oracleBytes reads s →
      s.session.isReplyPending = true → s.tx.state = .idle → noFault reads.length s →
      payload.length = s.session.pendingBlock.length.toNat ∧
      ∃ t, exec .reply s = .next t ∧
        t.session = { s.session with
          isReplyPending := false, slaveSeq := nextSeq s.session.slaveSeq } ∧
        t.tx.state = .ready ∧ t.tx.cursor = 0 ∧ t.tx.endIndex = payload.length + 2 ∧
        t.tx.buffer.take (payload.length + 2) =
          frameBody s.cfg (s.session.masterSeq ++ nextSeq s.session.slaveSeq) payload ∧
        t.cfg = s.cfg ∧ t.rx = s.rx ∧ t.targets = s.targets ∧
        t.env = { s.env with accessor := s.env.accessor.drop reads.length } ∧
        t.trace = { s.trace with ports := s.trace.ports ++ oraclePorts reads s }) ∧
    (s.session.isReplyPending = false ∨ s.tx.state ≠ .idle → exec .reply s = .next s)

/-- 45_log_scheduler.md section 3: a sample that is allowed reads each committed target once with its own
width, in table order, and loads the frame of those bytes; one that is not allowed does nothing. -/
def Obligations.TelemetryLoadsTheCommittedTargets : Prop :=
  ∀ s : State,
    (∀ reads payload,
      reads = ((s.targets.entries.take s.targets.committedCount).map fun e => (e.address, e.size)) →
      payload = oracleBytes reads s →
      s.session.isReplyPending = false → s.tx.state = .idle → 0 < s.targets.committedCount →
      sizeSum s.targets.entries s.targets.committedCount ≤ s.cfg.maxPayload → noFault reads.length s →
      payload.length = sizeSum s.targets.entries s.targets.committedCount ∧
      ∃ t, exec .telemetry s = .next t ∧
        t.session = { s.session with slaveSeq := nextSeq s.session.slaveSeq } ∧
        t.tx.state = .ready ∧ t.tx.cursor = 0 ∧ t.tx.endIndex = payload.length + 2 ∧
        t.tx.buffer.take (payload.length + 2) =
          frameBody s.cfg (s.session.masterSeq ++ nextSeq s.session.slaveSeq) payload ∧
        t.cfg = s.cfg ∧ t.rx = s.rx ∧ t.targets = s.targets ∧
        t.env = { s.env with accessor := s.env.accessor.drop reads.length } ∧
        t.trace = { s.trace with ports := s.trace.ports ++ oraclePorts reads s }) ∧
    (s.session.isReplyPending = true ∨ s.tx.state ≠ .idle ∨ s.targets.committedCount = 0 ∨
        s.cfg.maxPayload < sizeSum s.targets.entries s.targets.committedCount →
      exec .telemetry s = .next s)

/-- 20_memory.md section 6: a read that faults while a reply or a sample is assembled abandons the frame
whole: no frame is queued, `slaveSeq` and `TXBUF` keep their values, no further read is made; the reply's
flag is cleared. -/
def Obligations.ReadFaultAbandonsTheFrame : Prop :=
  ∀ (s : State) (k : Nat), s.tx.state = .idle → firstFaultAt k s →
    (s.session.isReplyPending = true → k < s.session.pendingBlock.length.toNat →
      exec .reply s =
        .next { s with
          session := { s.session with isReplyPending := false }
          env := { s.env with accessor := s.env.accessor.drop (k + 1) }
          trace := ⟨s.trace.ports ++
              oraclePorts ((blockReads s.cfg s.session.pendingBlock).take (k + 1)) s,
            s.trace.absorbed ++ [.access]⟩ }) ∧
    (s.session.isReplyPending = false → k < (s.targets.entries.take s.targets.committedCount).length →
      sizeSum s.targets.entries s.targets.committedCount ≤ s.cfg.maxPayload →
      exec .telemetry s =
        .next { s with
          env := { s.env with accessor := s.env.accessor.drop (k + 1) }
          trace := ⟨s.trace.ports ++ oraclePorts ((sampleReads s.targets).take (k + 1)) s,
            s.trace.absorbed ++ [.access]⟩ })

/-! ### The scheduler -/

/-- 45_log_scheduler.md section 2: step T4. While logging the counter takes `e`; reaching the limit switches
logging off and keeps the counter; not logging, nothing changes; no error, nothing sent. -/
def Obligations.WatchdogStopsLoggingAtTheLimit : Prop :=
  ∀ (s : State) (e : Half),
    (s.session.isLoggingEnabled = true →
      watchdog e s =
        { s with session := { s.session with
          logTimeoutCounter := s.session.logTimeoutCounter + e.toNat
          isLoggingEnabled :=
            decide (s.session.logTimeoutCounter + e.toNat < s.session.logWatchdogLimit.toNat) } }) ∧
    (s.session.isLoggingEnabled = false → watchdog e s = s)

/-- 45_log_scheduler.md section 3: step T5. While logging the counter takes `e`; reaching the period it
becomes 0, not the excess, whether or not a frame is built; not logging, nothing changes. -/
def Obligations.SamplerCountsToThePeriod : Prop :=
  ∀ (s : State) (e : Half),
    (s.session.isLoggingEnabled = true →
      s.session.logIntervalCounter + e.toNat < s.session.logIntervalPeriod.toNat →
      sampler e s =
        .next { s with session := { s.session with
          logIntervalCounter := s.session.logIntervalCounter + e.toNat } }) ∧
    (s.session.isLoggingEnabled = true →
      s.session.logIntervalPeriod.toNat ≤ s.session.logIntervalCounter + e.toNat →
      ∃ t, sampler e s = .next t ∧ t.session.logIntervalCounter = 0 ∧
        t.session.isLoggingEnabled = true ∧
        t.session.logTimeoutCounter = s.session.logTimeoutCounter ∧ t.targets = s.targets) ∧
    (s.session.isLoggingEnabled = false → sampler e s = .next s)

/-- 95_test_vectors.md S6 and 45_log_scheduler.md section 2: ticks alone, whose sum reaches the limit, end
logging. -/
def Obligations.TicksWithoutARequestEndLogging : Prop :=
  ∀ (s : State) (es : List Half), configOk s.cfg = true → s.env.inputs = es.map .tick →
    s.rx.state ≠ .complete →
    s.session.logTimeoutCounter < s.session.logWatchdogLimit.toNat →
    s.session.logWatchdogLimit.toNat ≤ s.session.logTimeoutCounter + (es.map BitVec.toNat).sum →
    ∃ t, Host.Core.run Sys2Proof.core es.length s = .next t ∧ t.session.isLoggingEnabled = false

/-! ### Frames -/

/-- The commands that reach neither device memory nor the targets: LOGSTART, LOGSTOP, LOGPERIOD, AUTH, DUMP
and the reserved opcodes. What none of them touches, and what only the named one does. -/
def Obligations.SessionCommandsLeaveTheRest : Prop :=
  ∀ (i : Instr) (op : Nibble) (s t : State), i.opcode = some op →
    op ≠ 0x4#4 → op ≠ 0x5#4 → op ≠ 0x8#4 → exec i s = .next t →
    t.cfg = s.cfg ∧ t.rx = s.rx ∧ t.tx = s.tx ∧ t.targets = s.targets ∧ t.env = s.env ∧
    (∀ a, memGet t.env.memory a = memGet s.env.memory a) ∧ t.trace.ports = s.trace.ports ∧
    t.session.slaveSeq = s.session.slaveSeq ∧ t.session.passkey = s.session.passkey ∧
    t.session.logWatchdogLimit = s.session.logWatchdogLimit ∧
    t.session.versionInfo = s.session.versionInfo ∧
    (op ≠ 0x6#4 → t.session.isAuthenticated = s.session.isAuthenticated) ∧
    (op ≠ 0x3#4 → t.session.logIntervalPeriod = s.session.logIntervalPeriod) ∧
    (op ≠ 0x1#4 → t.session.logIntervalCounter = s.session.logIntervalCounter)

/-- LOGCFG writes the targets, the logging flag, `pendingBlock`, and what an accepted request writes
(`masterSeq`, the watchdog counter, `isReplyPending`); it makes no access. -/
def Obligations.LogcfgLeavesTheRest : Prop :=
  ∀ (m : Nibble) (ops : Operands CfgFields) (s t : State), exec (.logcfg m ops) s = .next t →
    t.cfg = s.cfg ∧ t.rx = s.rx ∧ t.tx = s.tx ∧ t.env = s.env ∧
    (∀ a, memGet t.env.memory a = memGet s.env.memory a) ∧ t.trace.ports = s.trace.ports ∧
    t.session =
      { s.session with
        isLoggingEnabled := t.session.isLoggingEnabled
        pendingBlock := t.session.pendingBlock
        masterSeq := t.session.masterSeq
        logTimeoutCounter := t.session.logTimeoutCounter
        isReplyPending := t.session.isReplyPending }

/-- WRITE changes no byte of device memory outside the `z` bytes from its address, no flag but
`isReplyPending`, and of the Session besides only `pendingBlock`, `masterSeq` and the watchdog counter. Two
things are the MODEL's choice and not the spec's: that the `z` bytes wrap at the top of the address space
(notes/assumptions/5.md; R68 gives the address of a write no arithmetic), and that an access changes no
byte of device memory but those written (notes/assumptions/3.md). -/
def Obligations.WriteLeavesTheRest : Prop :=
  ∀ (m : Nibble) (ops : Operands WriteFields) (s t : State), s.env.memory.wf = true →
    exec (.write m ops) s = .next t →
    t.cfg = s.cfg ∧ t.rx = s.rx ∧ t.tx = s.tx ∧ t.targets = s.targets ∧
    t.env.inputs = s.env.inputs ∧ t.env.bypass = s.env.bypass ∧ t.env.freeCount = s.env.freeCount ∧
    t.session =
      { s.session with
        pendingBlock := t.session.pendingBlock
        masterSeq := t.session.masterSeq
        logTimeoutCounter := t.session.logTimeoutCounter
        isReplyPending := t.session.isReplyPending } ∧
    (∀ f, ops = .fields f → ∀ a,
      (∀ k, k < f.data.length → a ≠ (f.address.toNat + k) % 2 ^ (8 * s.cfg.addrW.bytes)) →
      memGet t.env.memory a = memGet s.env.memory a) ∧
    (∀ p, ops = .badLength p → ∀ a, memGet t.env.memory a = memGet s.env.memory a)

/-- BYPASS changes no byte of device memory but those its capability stores, and of the Session only the
logging flag, `pendingBlock` and what an accepted request writes. That the capability's effect on device
memory is a list of stored bytes, part of its answer and at addresses cut to `8·ADDR_W` bits, is the MODEL's
choice (notes/assumptions/6.md). -/
def Obligations.BypassLeavesTheRest : Prop :=
  ∀ (m : Nibble) (p : List Byte) (s t : State), s.env.memory.wf = true →
    exec (.bypass m p) s = .next t →
    t.cfg = s.cfg ∧ t.rx = s.rx ∧ t.tx = s.tx ∧ t.targets = s.targets ∧
    t.env.inputs = s.env.inputs ∧ t.env.accessor = s.env.accessor ∧
    t.session =
      { s.session with
        isLoggingEnabled := t.session.isLoggingEnabled
        pendingBlock := t.session.pendingBlock
        masterSeq := t.session.masterSeq
        logTimeoutCounter := t.session.logTimeoutCounter
        isReplyPending := t.session.isReplyPending } ∧
    (∀ a, (∀ cell ∈ (bypassAnswer p s).stores,
        a ≠ cell.1.toNat % 2 ^ (8 * s.cfg.addrW.bytes)) →
      memGet t.env.memory a = memGet s.env.memory a) ∧
    (s.cfg.bypass = false → t.env = s.env)

/-- REPLY and TELEMETRY write the transmitter, `slaveSeq` and (the reply) `isReplyPending`; they store
nothing. That their reads leave every byte of device memory is the MODEL's choice: a side effect of a read
shows only in the accessor's answers (notes/assumptions/3.md, notes/assumptions/17.md). -/
def Obligations.DeviceFramesLeaveTheRest : Prop :=
  ∀ (i : Instr) (s t : State), i = .reply ∨ i = .telemetry → exec i s = .next t →
    t.cfg = s.cfg ∧ t.rx = s.rx ∧ t.targets = s.targets ∧ t.env.inputs = s.env.inputs ∧
    t.env.bypass = s.env.bypass ∧ t.env.freeCount = s.env.freeCount ∧
    (∀ a, memGet t.env.memory a = memGet s.env.memory a) ∧
    t.session =
      { s.session with
        slaveSeq := t.session.slaveSeq
        isReplyPending := t.session.isReplyPending } ∧
    (i = .telemetry → t.session.isReplyPending = s.session.isReplyPending)

/-- 41_frame_receiver.md section 1 and 42_frame_transmitter.md section 1: an `RX_PUSH` step always
completes, touches ReceivedFrame alone and absorbs at most one error; a `TX_PULL` step always completes,
touches TransmitFrame alone and has exactly one result. -/
def Obligations.PushAndPullOwnTheirRecords : Prop :=
  ∀ (s : State) (rest : List Event), configOk s.cfg = true →
    (∀ b, s.env.inputs = .rxPush b :: rest →
      ∃ (rx : Received) (errors : List ErrorClass), errors.length ≤ 1 ∧
        step s = .next { s with rx := rx, env := { s.env with inputs := rest }, trace := ⟨[], errors⟩ }) ∧
    (s.env.inputs = .txPull :: rest →
      ∃ (tx : Transmit) (result : Option Byte),
        step s =
          .next { s with tx := tx, env := { s.env with inputs := rest }, trace := ⟨[.pulled result], []⟩ })

/-! ### Rules about the whole machine -/

/-- 60_exceptions.md section 1 and 70_reset_and_hazards.md section 4: every instruction has a next state in
every state; with parameters in their bounds every step has one, and every run of any length. -/
def Obligations.NothingIsFatal : Prop :=
  (∀ (i : Instr) (s : State), ∃ t, exec i s = .next t) ∧
  (∀ (n : Nat) (s : State), configOk s.cfg = true → SafeRun n s)

/-- The MODEL's choice (notes/assumptions/1.md): parameters outside the constraints of the parameter table
stop the machine, at the first step, by name. -/
def Obligations.ParametersOutOfBoundsFault : Prop :=
  ∀ s : State, configOk s.cfg = false → step s = .fault .badConfiguration

/-- The state after reset meets the invariant. That the entries of `targets` are legal then rests on the
values that the MODEL gives them after reset (notes/assumptions/8.md); R48 leaves them unspecified. -/
def Obligations.ResetMeetsTheInvariant : Prop := BlockOk State.reset

/-- Every step keeps the invariant: the document's own invariants of ReceivedFrame, TransmitFrame and
LogTargets, the legal values and bounds of the Session's fields, and the canonical form of device memory
(the model's). In one clause the invariant is the MODEL's choice and not the spec's: it asks every entry of
`targets` to be legal, where R41 says so only of those below `stagedCount` and R48 leaves the entries
unspecified after `RESET`; the `RESET` step keeps that clause by the values the model gives the entries
then (notes/assumptions/8.md). -/
def Obligations.EveryStepKeepsTheInvariant : Prop :=
  ∀ s t : State, BlockOk s → step s = .next t → BlockOk t

/-- 44_commands.md, Summary: only LOGSTART turns logging on: an authenticated LOGSTART with an empty
payload, in the frame that this `TICK` consumes. -/
def Obligations.OnlyLogstartTurnsLoggingOn : Prop :=
  ∀ s t : State, step s = .next t → s.session.isLoggingEnabled = false →
    t.session.isLoggingEnabled = true →
    s.session.isAuthenticated = true ∧ ∃ m, consumes s (.logstart m [])

/-- 60_exceptions.md section 4: the level rises only by an AUTH with the right key, and falls only by an AUTH
with a wrong 4-byte key or by `RESET`. -/
def Obligations.OnlyAuthAndResetChangeTheLevel : Prop :=
  ∀ s t : State, step s = .next t →
    (s.session.isAuthenticated = false → t.session.isAuthenticated = true →
      ∃ m, consumes s (.auth m (.fields s.session.passkey))) ∧
    (s.session.isAuthenticated = true → t.session.isAuthenticated = false →
      (∃ rest, s.env.inputs = .reset :: rest) ∨
      ∃ m key, key ≠ s.session.passkey ∧ consumes s (.auth m (.fields key)))

/-- 43_dispatch_and_reply.md R194: `next`; `slaveSeq` advances by it exactly once for each frame loaded,
and at no other time (but for `RESET`); from 1 its values run 2, 3, …, 15, 1, 2, …. -/
def Obligations.SlaveSeqAdvancesOncePerLoadedFrame : Prop :=
  nextSeq 15#4 = 1#4 ∧ nextSeq 0#4 = 1#4 ∧
  (∀ x : Nibble, 1 ≤ x.toNat → x.toNat ≤ 14 → (nextSeq x).toNat = x.toNat + 1) ∧
  (∀ n : Nat, (nextSeq^[n] 1#4).toNat = n % 15 + 1) ∧
  ∀ s t : State, step s = .next t → (∀ rest, s.env.inputs ≠ .reset :: rest) →
    (t.session.slaveSeq = s.session.slaveSeq ∧ (t.tx.state = .ready → s.tx.state = .ready)) ∨
    (t.session.slaveSeq = nextSeq s.session.slaveSeq ∧ s.tx.state = .idle ∧ t.tx.state = .ready)

/-- 42_frame_transmitter.md section 3: a frame is never loaded over one that is being sent: a `TICK` leaves
a transmitter that is not idle as it is. -/
def Obligations.NoFrameIsLoadedOverAnother : Prop :=
  ∀ (s t : State) (e : Half) (rest : List Event), s.env.inputs = .tick e :: rest →
    s.tx.state ≠ .idle → step s = .next t → t.tx = s.tx

/-- 43_dispatch_and_reply.md section 2 and 60_exceptions.md section 4: while the peer is unauthenticated, no
step stores a byte or calls the bypass capability. That the bytes the model holds as device memory stay as
they are besides is the MODEL's choice: what other agents and reads do to a live memory shows only in the
accessor's answers (notes/assumptions/3.md, notes/assumptions/17.md). -/
def Obligations.UnauthenticatedPeerStoresNothing : Prop :=
  ∀ s t : State, s.session.isAuthenticated = false → step s = .next t →
    t.env.memory = s.env.memory ∧ t.env.bypass = s.env.bypass ∧
    (∀ a w data ok, PortEvent.memWrite a w data ok ∉ t.trace.ports) ∧
    ∀ p answer, PortEvent.bypassCall p answer ∉ t.trace.ports

/-- 20_memory.md section 3: the block writes device memory only in a `TICK` that consumes a WRITE, or calls
its bypass capability in one that consumes a BYPASS, of an authenticated peer. That device memory changes at
no other time is the MODEL's choice and not the spec's: R62, R70 and U14 leave it live, with other agents
and side effects of reads, and in the model those show only in the accessor's answers, never in the bytes
it holds as device memory (notes/assumptions/3.md, notes/assumptions/17.md). -/
def Obligations.OnlyWriteAndBypassChangeMemory : Prop :=
  ∀ s t : State, step s = .next t → t.env.memory ≠ s.env.memory →
    s.session.isAuthenticated = true ∧
    ((∃ m f, consumes s (.write m (.fields f))) ∨ (s.cfg.bypass = true ∧ ∃ m p, consumes s (.bypass m p)))

/-- 10_state.md sections 5 and 7: the parameters never change, and `passkey`, `versionInfo` and
`logWatchdogLimit` change only by `RESET`, to the parameters' values. -/
def Obligations.ParametersAndLoadedFieldsStayFixed : Prop :=
  ∀ s t : State, step s = .next t →
    t.cfg = s.cfg ∧
    ((t.session.passkey = s.session.passkey ∧ t.session.versionInfo = s.session.versionInfo ∧
        t.session.logWatchdogLimit = s.session.logWatchdogLimit) ∨
      ((∃ rest, s.env.inputs = .reset :: rest) ∧ t.session.passkey = s.cfg.passkey ∧
        t.session.versionInfo = ⟨s.cfg.versionAddr, s.cfg.versionLen⟩ ∧
        t.session.logWatchdogLimit = s.cfg.logWatchdogLimit))

/-- 10_state.md section 5 (`passkey`): no instruction but AUTH depends on the passkey: on two states that
differ in it alone, the results differ in it alone. -/
def Obligations.OnlyAuthDependsOnThePasskey : Prop :=
  ∀ (i : Instr) (s t : State) (key : Word), i.opcode ≠ some 0x6#4 → exec i s = .next t →
    exec i { s with session := { s.session with passkey := key } } =
      .next { t with session := { t.session with passkey := key } }

/-! ### The link as a whole -/

/-- 41_frame_receiver.md section 6: pushing the wire form of any body of 1 to `RX_CAP − 1` bytes, delimiter
and escape values among them, completes that body, and changes nothing but the receiver. -/
def Obligations.ReceiverRecoversTheBodyFromItsWireForm : Prop :=
  ∀ (s : State) (body : List Byte) (rest : List Event), configOk s.cfg = true →
    s.rx.state = .idle → s.rx.buffer.length = s.cfg.rxCap →
    1 ≤ body.length → body.length < s.cfg.rxCap → s.env.inputs = sendEvents body ++ rest →
    ∃ t, Host.Core.run Sys2Proof.core (sendEvents body).length s = .next t ∧
      t.rx.state = .complete ∧ t.rx.length = body.length ∧ t.rxBody = body ∧
      t = { s with rx := t.rx, env := { s.env with inputs := rest }, trace := ⟨[], []⟩ }

/-- A well-formed request that a host encodes, frames, escapes and pushes byte by byte, followed by one
`TICK(e)`, is executed: the run is `exec` of that very request, on the state with only the receiver changed,
then the clear of the receiver and the steps T3 to T5. -/
def Obligations.SentInstructionIsExecuted : Prop :=
  ∀ (s : State) (i : Instr) (e : Half) (rest : List Event), configOk s.cfg = true →
    s.rx.state = .idle → s.rx.buffer.length = s.cfg.rxCap →
    i.wellFormed s.cfg = true → i.layer = some .body →
    s.env.inputs = sendEvents (encode s.cfg i) ++ .tick e :: rest →
    ∃ rx : Received,
      Host.Core.run Sys2Proof.core ((sendEvents (encode s.cfg i)).length + 1) s =
        andThen
          (exec i { s with rx := rx, env := { s.env with inputs := rest }, trace := ⟨[], []⟩ }) fun s1 =>
        andThen (exec .reply s1.rxReset) fun s2 => sampler e (watchdog e s2)
end

