-- ==== Sys2Proof/Laws/Bytes.lean ====
section
/-! SUPPORT. Little-endian assembly, the `SEQ` byte, and the CRC's law. -/

namespace Sys2Proof.Machine

@[simp] theorem leBytes_length : ∀ (n v : Nat), (leBytes n v).length = n
  | 0, _ => rfl
  | n + 1, v => by simp [leBytes, leBytes_length n]

/-- Assembling what was taken apart. -/
theorem leNat_leBytes : ∀ (n : Nat) {v : Nat}, v < 256 ^ n → leNat (leBytes n v) = v
  | 0, v, h => by simp [leBytes, leNat]; omega
  | n + 1, v, h => by
    have hv : v / 256 < 256 ^ n := by
      rw [Nat.pow_succ] at h
      omega
    simp only [leBytes, leNat, leNat_leBytes n hv, BitVec.toNat_ofNat]
    omega

/-- The number of a byte sequence fits its bytes. -/
theorem leNat_lt : ∀ (bs : List Byte), leNat bs < 256 ^ bs.length
  | [] => by simp [leNat]
  | b :: bs => by
    have h := leNat_lt bs
    have hb := b.isLt
    simp only [leNat, List.length_cons, Nat.pow_succ]
    omega

/-- Taking apart what was assembled. -/
theorem leBytes_leNat : ∀ (bs : List Byte), leBytes bs.length (leNat bs) = bs
  | [] => rfl
  | b :: bs => by
    have hb := b.isLt
    have h1 : (b.toNat + 256 * leNat bs) / 256 = leNat bs := by omega
    have h2 : BitVec.ofNat 8 (b.toNat + 256 * leNat bs) = b := by
      apply BitVec.eq_of_toNat_eq
      simp only [BitVec.toNat_ofNat]
      omega
    simp only [List.length_cons, leNat, leBytes, h1, h2, leBytes_leNat bs]

@[simp] theorem seqUpper_seqByte (u l : Nibble) : seqUpper (seqByte u l) = u := by
  revert u l
  decide

@[simp] theorem seqLower_seqByte (u l : Nibble) : seqLower (seqByte u l) = l := by
  revert u l
  decide

@[simp] theorem seqByte_upper_lower (b : Byte) : seqByte (seqUpper b) (seqLower b) = b := by
  revert b
  decide +kernel

/-- The CRC of a longer sequence goes on from the CRC of its beginning. -/
theorem crc8_concat (table : List Byte) (s : List Byte) (b : Byte) :
    crc8 table (s ++ [b]) = crcStep table (crc8 table s) b := by
  simp [crc8, List.foldl_append]

/-- A size is determined by its byte count. -/
theorem Width.bytes_inj {v w : Width} (h : v.bytes = w.bytes) : v = w := by
  revert h
  cases v <;> cases w <;> decide

theorem Width.bytes_pos (w : Width) : 1 ≤ w.bytes := by cases w <;> decide

theorem Width.bytes_le (w : Width) : w.bytes ≤ 8 := by cases w <;> decide

/-- An address field read from the wire has `8·ADDR_W` bits. -/
theorem readAddr_fits (c : Config) (bs : List Byte) : addrFits c (readAddr c bs) = true := by
  have h := leNat_lt (bs.take c.addrW.bytes)
  have h2 : 256 ^ (bs.take c.addrW.bytes).length ≤ 256 ^ c.addrW.bytes :=
    Nat.pow_le_pow_right (by decide) (by simp)
  have h3 : (256 : Nat) ^ c.addrW.bytes = 2 ^ (8 * c.addrW.bytes) := by
    cases c.addrW <;> decide
  simp only [addrFits, readAddr, BitVec.toNat_ofNat, decide_eq_true_eq]
  exact Nat.lt_of_le_of_lt (Nat.mod_le _ _) (by omega)

end Sys2Proof.Machine
end

