-- ==== Sys2Proof/Laws/State.lean ====
section
/-! SUPPORT. What each named update of the state does to each of its seven parts. -/

namespace Sys2Proof.Machine

@[simp] theorem State.record_cfg (p : PortEvent) (s : State) :
    (State.record p s).cfg = s.cfg := rfl
@[simp] theorem State.record_rx (p : PortEvent) (s : State) :
    (State.record p s).rx = s.rx := rfl
@[simp] theorem State.record_tx (p : PortEvent) (s : State) :
    (State.record p s).tx = s.tx := rfl
@[simp] theorem State.record_session (p : PortEvent) (s : State) :
    (State.record p s).session = s.session := rfl
@[simp] theorem State.record_targets (p : PortEvent) (s : State) :
    (State.record p s).targets = s.targets := rfl
@[simp] theorem State.record_env (p : PortEvent) (s : State) :
    (State.record p s).env = s.env := rfl
@[simp] theorem State.record_trace (p : PortEvent) (s : State) :
    (State.record p s).trace = { s.trace with ports := s.trace.ports ++ [p] } := rfl

@[simp] theorem State.absorb_cfg (cls : ErrorClass) (s : State) :
    (State.absorb cls s).cfg = s.cfg := rfl
@[simp] theorem State.absorb_rx (cls : ErrorClass) (s : State) :
    (State.absorb cls s).rx = s.rx := rfl
@[simp] theorem State.absorb_tx (cls : ErrorClass) (s : State) :
    (State.absorb cls s).tx = s.tx := rfl
@[simp] theorem State.absorb_session (cls : ErrorClass) (s : State) :
    (State.absorb cls s).session = s.session := rfl
@[simp] theorem State.absorb_targets (cls : ErrorClass) (s : State) :
    (State.absorb cls s).targets = s.targets := rfl
@[simp] theorem State.absorb_env (cls : ErrorClass) (s : State) :
    (State.absorb cls s).env = s.env := rfl
@[simp] theorem State.absorb_trace (cls : ErrorClass) (s : State) :
    (State.absorb cls s).trace = { s.trace with absorbed := s.trace.absorbed ++ [cls] } := rfl

@[simp] theorem State.setAuthenticated_cfg (v : Bool) (s : State) :
    (State.setAuthenticated v s).cfg = s.cfg := rfl
@[simp] theorem State.setAuthenticated_rx (v : Bool) (s : State) :
    (State.setAuthenticated v s).rx = s.rx := rfl
@[simp] theorem State.setAuthenticated_tx (v : Bool) (s : State) :
    (State.setAuthenticated v s).tx = s.tx := rfl
@[simp] theorem State.setAuthenticated_session (v : Bool) (s : State) :
    (State.setAuthenticated v s).session = { s.session with isAuthenticated := v } := rfl
@[simp] theorem State.setAuthenticated_targets (v : Bool) (s : State) :
    (State.setAuthenticated v s).targets = s.targets := rfl
@[simp] theorem State.setAuthenticated_env (v : Bool) (s : State) :
    (State.setAuthenticated v s).env = s.env := rfl
@[simp] theorem State.setAuthenticated_trace (v : Bool) (s : State) :
    (State.setAuthenticated v s).trace = s.trace := rfl

@[simp] theorem State.setLogging_cfg (v : Bool) (s : State) :
    (State.setLogging v s).cfg = s.cfg := rfl
@[simp] theorem State.setLogging_rx (v : Bool) (s : State) :
    (State.setLogging v s).rx = s.rx := rfl
@[simp] theorem State.setLogging_tx (v : Bool) (s : State) :
    (State.setLogging v s).tx = s.tx := rfl
@[simp] theorem State.setLogging_session (v : Bool) (s : State) :
    (State.setLogging v s).session = { s.session with isLoggingEnabled := v } := rfl
@[simp] theorem State.setLogging_targets (v : Bool) (s : State) :
    (State.setLogging v s).targets = s.targets := rfl
@[simp] theorem State.setLogging_env (v : Bool) (s : State) :
    (State.setLogging v s).env = s.env := rfl
@[simp] theorem State.setLogging_trace (v : Bool) (s : State) :
    (State.setLogging v s).trace = s.trace := rfl

@[simp] theorem State.setReplyPending_cfg (v : Bool) (s : State) :
    (State.setReplyPending v s).cfg = s.cfg := rfl
@[simp] theorem State.setReplyPending_rx (v : Bool) (s : State) :
    (State.setReplyPending v s).rx = s.rx := rfl
@[simp] theorem State.setReplyPending_tx (v : Bool) (s : State) :
    (State.setReplyPending v s).tx = s.tx := rfl
@[simp] theorem State.setReplyPending_session (v : Bool) (s : State) :
    (State.setReplyPending v s).session = { s.session with isReplyPending := v } := rfl
@[simp] theorem State.setReplyPending_targets (v : Bool) (s : State) :
    (State.setReplyPending v s).targets = s.targets := rfl
@[simp] theorem State.setReplyPending_env (v : Bool) (s : State) :
    (State.setReplyPending v s).env = s.env := rfl
@[simp] theorem State.setReplyPending_trace (v : Bool) (s : State) :
    (State.setReplyPending v s).trace = s.trace := rfl

@[simp] theorem State.setPending_cfg (b : Block) (s : State) :
    (State.setPending b s).cfg = s.cfg := rfl
@[simp] theorem State.setPending_rx (b : Block) (s : State) :
    (State.setPending b s).rx = s.rx := rfl
@[simp] theorem State.setPending_tx (b : Block) (s : State) :
    (State.setPending b s).tx = s.tx := rfl
@[simp] theorem State.setPending_session (b : Block) (s : State) :
    (State.setPending b s).session = { s.session with pendingBlock := b } := rfl
@[simp] theorem State.setPending_targets (b : Block) (s : State) :
    (State.setPending b s).targets = s.targets := rfl
@[simp] theorem State.setPending_env (b : Block) (s : State) :
    (State.setPending b s).env = s.env := rfl
@[simp] theorem State.setPending_trace (b : Block) (s : State) :
    (State.setPending b s).trace = s.trace := rfl

@[simp] theorem State.accept_cfg (m : Nibble) (s : State) :
    (State.accept m s).cfg = s.cfg := rfl
@[simp] theorem State.accept_rx (m : Nibble) (s : State) :
    (State.accept m s).rx = s.rx := rfl
@[simp] theorem State.accept_tx (m : Nibble) (s : State) :
    (State.accept m s).tx = s.tx := rfl
@[simp] theorem State.accept_session (m : Nibble) (s : State) :
    (State.accept m s).session = { s.session with masterSeq := m, logTimeoutCounter := 0 } := rfl
@[simp] theorem State.accept_targets (m : Nibble) (s : State) :
    (State.accept m s).targets = s.targets := rfl
@[simp] theorem State.accept_env (m : Nibble) (s : State) :
    (State.accept m s).env = s.env := rfl
@[simp] theorem State.accept_trace (m : Nibble) (s : State) :
    (State.accept m s).trace = s.trace := rfl

@[simp] theorem State.setIntervalCounter_cfg (n : Nat) (s : State) :
    (State.setIntervalCounter n s).cfg = s.cfg := rfl
@[simp] theorem State.setIntervalCounter_rx (n : Nat) (s : State) :
    (State.setIntervalCounter n s).rx = s.rx := rfl
@[simp] theorem State.setIntervalCounter_tx (n : Nat) (s : State) :
    (State.setIntervalCounter n s).tx = s.tx := rfl
@[simp] theorem State.setIntervalCounter_session (n : Nat) (s : State) :
    (State.setIntervalCounter n s).session = { s.session with logIntervalCounter := n } := rfl
@[simp] theorem State.setIntervalCounter_targets (n : Nat) (s : State) :
    (State.setIntervalCounter n s).targets = s.targets := rfl
@[simp] theorem State.setIntervalCounter_env (n : Nat) (s : State) :
    (State.setIntervalCounter n s).env = s.env := rfl
@[simp] theorem State.setIntervalCounter_trace (n : Nat) (s : State) :
    (State.setIntervalCounter n s).trace = s.trace := rfl

@[simp] theorem State.setStaged_cfg (n : Nat) (s : State) :
    (State.setStaged n s).cfg = s.cfg := rfl
@[simp] theorem State.setStaged_rx (n : Nat) (s : State) :
    (State.setStaged n s).rx = s.rx := rfl
@[simp] theorem State.setStaged_tx (n : Nat) (s : State) :
    (State.setStaged n s).tx = s.tx := rfl
@[simp] theorem State.setStaged_session (n : Nat) (s : State) :
    (State.setStaged n s).session = s.session := rfl
@[simp] theorem State.setStaged_targets (n : Nat) (s : State) :
    (State.setStaged n s).targets = { s.targets with stagedCount := n } := rfl
@[simp] theorem State.setStaged_env (n : Nat) (s : State) :
    (State.setStaged n s).env = s.env := rfl
@[simp] theorem State.setStaged_trace (n : Nat) (s : State) :
    (State.setStaged n s).trace = s.trace := rfl

@[simp] theorem State.rxReset_cfg (s : State) :
    (State.rxReset s).cfg = s.cfg := rfl
@[simp] theorem State.rxReset_rx (s : State) :
    (State.rxReset s).rx = { s.rx with state := .idle, length := 0, timeoutCounter := 0 } := rfl
@[simp] theorem State.rxReset_tx (s : State) :
    (State.rxReset s).tx = s.tx := rfl
@[simp] theorem State.rxReset_session (s : State) :
    (State.rxReset s).session = s.session := rfl
@[simp] theorem State.rxReset_targets (s : State) :
    (State.rxReset s).targets = s.targets := rfl
@[simp] theorem State.rxReset_env (s : State) :
    (State.rxReset s).env = s.env := rfl
@[simp] theorem State.rxReset_trace (s : State) :
    (State.rxReset s).trace = s.trace := rfl

@[simp] theorem State.rxOpen_cfg (s : State) :
    (State.rxOpen s).cfg = s.cfg := rfl
@[simp] theorem State.rxOpen_rx (s : State) :
    (State.rxOpen s).rx = { s.rx with state := .framing, length := 0, timeoutCounter := 0 } := rfl
@[simp] theorem State.rxOpen_tx (s : State) :
    (State.rxOpen s).tx = s.tx := rfl
@[simp] theorem State.rxOpen_session (s : State) :
    (State.rxOpen s).session = s.session := rfl
@[simp] theorem State.rxOpen_targets (s : State) :
    (State.rxOpen s).targets = s.targets := rfl
@[simp] theorem State.rxOpen_env (s : State) :
    (State.rxOpen s).env = s.env := rfl
@[simp] theorem State.rxOpen_trace (s : State) :
    (State.rxOpen s).trace = s.trace := rfl

@[simp] theorem State.setRxState_cfg (r : RxState) (s : State) :
    (State.setRxState r s).cfg = s.cfg := rfl
@[simp] theorem State.setRxState_rx (r : RxState) (s : State) :
    (State.setRxState r s).rx = { s.rx with state := r } := rfl
@[simp] theorem State.setRxState_tx (r : RxState) (s : State) :
    (State.setRxState r s).tx = s.tx := rfl
@[simp] theorem State.setRxState_session (r : RxState) (s : State) :
    (State.setRxState r s).session = s.session := rfl
@[simp] theorem State.setRxState_targets (r : RxState) (s : State) :
    (State.setRxState r s).targets = s.targets := rfl
@[simp] theorem State.setRxState_env (r : RxState) (s : State) :
    (State.setRxState r s).env = s.env := rfl
@[simp] theorem State.setRxState_trace (r : RxState) (s : State) :
    (State.setRxState r s).trace = s.trace := rfl

@[simp] theorem State.begin_cfg (rest : List Event) (s : State) :
    (State.begin rest s).cfg = s.cfg := rfl
@[simp] theorem State.begin_rx (rest : List Event) (s : State) :
    (State.begin rest s).rx = s.rx := rfl
@[simp] theorem State.begin_tx (rest : List Event) (s : State) :
    (State.begin rest s).tx = s.tx := rfl
@[simp] theorem State.begin_session (rest : List Event) (s : State) :
    (State.begin rest s).session = s.session := rfl
@[simp] theorem State.begin_targets (rest : List Event) (s : State) :
    (State.begin rest s).targets = s.targets := rfl
@[simp] theorem State.begin_env (rest : List Event) (s : State) :
    (State.begin rest s).env = { s.env with inputs := rest } := rfl
@[simp] theorem State.begin_trace (rest : List Event) (s : State) :
    (State.begin rest s).trace = Trace.empty := rfl

end Sys2Proof.Machine
end

