-- ==== Sys2Proof/Laws/Ports.lean ====
section
/-! SUPPORT. What the accesses of the block can do: each uses up one answer of the environment and is
recorded; nothing else of the state changes, but for the bytes a write stores. -/

namespace Sys2Proof.Machine

/-- Two states that differ at most in the accessor's coming answers and the record of ports. -/
structure SamePorts (s t : State) : Prop where
  cfg : t.cfg = s.cfg
  rx : t.rx = s.rx
  tx : t.tx = s.tx
  session : t.session = s.session
  targets : t.targets = s.targets
  inputs : t.env.inputs = s.env.inputs
  memory : t.env.memory = s.env.memory
  bypass : t.env.bypass = s.env.bypass
  freeCount : t.env.freeCount = s.env.freeCount
  absorbed : t.trace.absorbed = s.trace.absorbed

theorem SamePorts.refl (s : State) : SamePorts s s :=
  ⟨rfl, rfl, rfl, rfl, rfl, rfl, rfl, rfl, rfl, rfl⟩

theorem SamePorts.trans {s t u : State} (h : SamePorts s t) (k : SamePorts t u) : SamePorts s u :=
  ⟨k.cfg.trans h.cfg, k.rx.trans h.rx, k.tx.trans h.tx, k.session.trans h.session,
    k.targets.trans h.targets, k.inputs.trans h.inputs, k.memory.trans h.memory,
    k.bypass.trans h.bypass, k.freeCount.trans h.freeCount, k.absorbed.trans h.absorbed⟩

/-- A read changes nothing but the answers left and the record. -/
theorem memRead_same (a : Addr) (w : Width) (s : State) : SamePorts s (memRead a w s).2 :=
  ⟨rfl, rfl, rfl, rfl, rfl, rfl, rfl, rfl, rfl, rfl⟩

/-- So do the reads of a whole frame. -/
theorem readAll_same : ∀ (l : List (Addr × Width)) (s : State), SamePorts s (readAll l s).2
  | [], s => SamePorts.refl s
  | (a, w) :: rest, s => by
    have h1 := memRead_same a w s
    unfold readAll
    split
    · rename_i s1 heq
      rw [heq] at h1
      exact h1
    · rename_i bs s1 heq
      rw [heq] at h1
      have h2 := readAll_same rest s1
      split
      · rename_i s2 heq2
        rw [heq2] at h2
        exact h1.trans h2
      · rename_i tl s2 heq2
        rw [heq2] at h2
        exact h1.trans h2

/-- A read that answers gives as many bytes as it is wide (20_memory.md R61). -/
theorem memRead_length {a : Addr} {w : Width} {s s1 : State} {bs : List Byte}
    (h : memRead a w s = (some bs, s1)) : bs.length = w.bytes := by
  have h1 : readAnswer s.cfg s.env.memory a w (accessorAnswer s) = some bs := congrArg Prod.fst h
  cases hans : accessorAnswer s with
  | memory =>
    simp only [hans, readAnswer, Option.some.injEq] at h1
    simp [← h1, memGetBytes]
  | fault => simp [hans, readAnswer] at h1
  | live v =>
    simp only [hans, readAnswer, Option.some.injEq] at h1
    simp [← h1]

/-- The payload of a frame is as long as its reads are wide. -/
theorem readAll_length : ∀ (l : List (Addr × Width)) {s s1 : State} {p : List Byte},
    readAll l s = (some p, s1) → p.length = (l.map fun r => r.2.bytes).sum
  | [], s, s1, p, h => by
    simp only [readAll, Prod.mk.injEq, Option.some.injEq] at h
    simp [← h.1]
  | (a, w) :: rest, s, s1, p, h => by
    unfold readAll at h
    split at h
    · simp at h
    · rename_i bs s2 heq
      split at h
      · simp at h
      · rename_i tl s3 heq2
        simp only [Prod.mk.injEq, Option.some.injEq] at h
        have h1 := memRead_length heq
        have h2 := readAll_length rest heq2
        simp [← h.1, h1, h2]

/-- A write changes at most device memory, the answers left and the record (20_memory.md R64). -/
theorem memWrite_frame (a : Addr) (w : Width) (data : List Byte) (s : State) :
    (memWrite a w data s).2.cfg = s.cfg ∧ (memWrite a w data s).2.rx = s.rx ∧
    (memWrite a w data s).2.tx = s.tx ∧ (memWrite a w data s).2.session = s.session ∧
    (memWrite a w data s).2.targets = s.targets ∧
    (memWrite a w data s).2.trace.absorbed = s.trace.absorbed ∧
    (memWrite a w data s).2.env.inputs = s.env.inputs ∧
    (memWrite a w data s).2.env.memory =
      if memWriteOk s then memPutBytes s.cfg a 0 data s.env.memory else s.env.memory := by
  unfold memWrite
  cases memWriteOk s <;> exact ⟨rfl, rfl, rfl, rfl, rfl, rfl, rfl, rfl⟩

/-- A load writes the transmitter and `slaveSeq` alone (43_dispatch_and_reply.md R193). -/
theorem loadFrame_frame (p : List Byte) (s : State) :
    (loadFrame p s).cfg = s.cfg ∧ (loadFrame p s).rx = s.rx ∧ (loadFrame p s).targets = s.targets ∧
    (loadFrame p s).env = s.env ∧ (loadFrame p s).trace = s.trace ∧
    (loadFrame p s).session = { s.session with slaveSeq := nextSeq s.session.slaveSeq } :=
  ⟨rfl, rfl, rfl, rfl, rfl, rfl⟩

/-- A loaded body is two bytes longer than its payload (43_dispatch_and_reply.md R193). -/
@[simp] theorem loadedBody_length (p : List Byte) (s : State) :
    (loadedBody p s).length = p.length + 2 := by
  simp [loadedBody, frameBody]

/-- Reading and loading: either one read faulted and only the class is added, or the frame of the
bytes read is loaded (43_dispatch_and_reply.md R193, R195; 45_log_scheduler.md R245, R247). -/
theorem readAndLoad_cases (l : List (Addr × Width)) (s : State) :
    ∃ u, SamePorts s u ∧
      ((readAndLoad l s = u.absorb .access) ∨
        ∃ p, p.length = (l.map fun r => r.2.bytes).sum ∧ readAndLoad l s = loadFrame p u) := by
  have h := readAll_same l s
  unfold readAndLoad
  split
  · rename_i s1 heq
    rw [heq] at h
    exact ⟨s1, h, .inl rfl⟩
  · rename_i p s1 heq
    rw [heq] at h
    exact ⟨s1, h, .inr ⟨p, readAll_length l heq, rfl⟩⟩

/-- The transmitter after a load (43_dispatch_and_reply.md R193). -/
theorem loadFrame_tx (p : List Byte) (s : State) :
    (loadFrame p s).tx.state = .ready ∧ (loadFrame p s).tx.cursor = 0 ∧
    (loadFrame p s).tx.endIndex = p.length + 2 ∧
    (loadFrame p s).tx.buffer.take (p.length + 2) =
      frameBody s.cfg (s.session.masterSeq ++ nextSeq s.session.slaveSeq) p := by
  refine ⟨rfl, rfl, loadedBody_length p s, ?_⟩
  show (overwrite s.tx.buffer (loadedBody p s)).take _ = _
  rw [overwrite, List.take_left' (loadedBody_length p s)]
  rfl

end Sys2Proof.Machine
end

