-- ==== Sys2Proof/Laws/Dispatch.lean ====
section
/-! SUPPORT. Once for all requests: what the gate, the clearing of `pendingBlock` and the three outcomes
can do, so that no proof about a command unfolds them again. -/

namespace Sys2Proof.Machine

@[simp] theorem andThen_next (s : State) (f : State → Result) : andThen (.next s) f = f s := rfl

/-- Behind the gate, authenticated: the handler runs on the state with an empty `pendingBlock`. -/
theorem privileged_authenticated {m : Nibble} {h : Handler} {s : State}
    (ha : s.session.isAuthenticated = true) : privileged m h s = runHandler m h s := by
  simp [privileged, ha]

/-- Behind the gate, unauthenticated: only the class is added (43_dispatch_and_reply.md R184). -/
theorem privileged_unauthenticated {m : Nibble} {h : Handler} {s : State}
    (ha : s.session.isAuthenticated = false) : privileged m h s = s.absorb .auth := by
  simp [privileged, ha]

/-- A handler that answers Success (43_dispatch_and_reply.md R187, R188). -/
theorem runHandler_success {m : Nibble} {h : Handler} {s u : State}
    (hr : h (s.setPending emptyBlock) = (.success, u)) :
    runHandler m h s = (u.accept m).setReplyPending true := by
  simp [runHandler, hr, applyVerdict]

/-- A handler that answers SuccessNoReply (43_dispatch_and_reply.md R189). -/
theorem runHandler_successNoReply {m : Nibble} {h : Handler} {s u : State}
    (hr : h (s.setPending emptyBlock) = (.successNoReply, u)) : runHandler m h s = u.accept m := by
  simp [runHandler, hr, applyVerdict]

/-- A handler that answers Error (43_dispatch_and_reply.md R190). -/
theorem runHandler_error {m : Nibble} {h : Handler} {s u : State} {cls : ErrorClass}
    (hr : h (s.setPending emptyBlock) = (.error cls, u)) : runHandler m h s = u.absorb cls := by
  simp [runHandler, hr, applyVerdict]

/-- The five things one `RX_PUSH` can come to, by the state the guard leaves. -/
theorem receive_cases (f g k : State → State) (s : State) :
    (s.rx.state = .complete ∧ receive f g k s = s) ∨
    (s.rx.state ≠ .complete ∧ (overflowGuard s).rx.state = .idle ∧
      receive f g k s = f (overflowGuard s)) ∨
    (s.rx.state ≠ .complete ∧ (overflowGuard s).rx.state = .framing ∧
      receive f g k s = g (overflowGuard s)) ∨
    (s.rx.state ≠ .complete ∧ (overflowGuard s).rx.state = .escaping ∧
      receive f g k s = k (overflowGuard s)) ∨
    (s.rx.state ≠ .complete ∧ (overflowGuard s).rx.state = .complete ∧
      receive f g k s = overflowGuard s) := by
  by_cases hc : s.rx.state = .complete
  · exact .inl ⟨hc, by simp [receive, hc]⟩
  · cases hr : (overflowGuard s).rx.state <;> simp [receive, hc, hr]

/-- The guard empties the receiver or does nothing (41_frame_receiver.md R149). -/
theorem overflowGuard_cases (s : State) :
    overflowGuard s = s ∨ overflowGuard s = s.rxReset.absorb .framing := by
  unfold overflowGuard
  split
  · exact .inr rfl
  · exact .inl rfl

end Sys2Proof.Machine
end

