-- ==== Sys2Proof/Laws/Encoding.lean ====
section
/-! SUPPORT. Payload layouts read and written: each reader takes apart what its layout put together, and
each layout puts together what its reader took apart (30_encoding.md R97 to R107). -/

namespace Sys2Proof.Machine

@[simp] theorem addrBytes_length (c : Config) (a : Addr) : (addrBytes c a).length = c.addrW.bytes := by
  simp [addrBytes]

theorem pow_addrW (c : Config) : (256 : Nat) ^ c.addrW.bytes = 2 ^ (8 * c.addrW.bytes) := by
  cases c.addrW <;> decide

/-- Reading an address that was written. -/
theorem readAddr_bytes {c : Config} {a : Addr} (ha : addrFits c a = true) (l : List Byte) :
    readAddr c (addrBytes c a ++ l) = a := by
  have h : a.toNat < 256 ^ c.addrW.bytes := by
    rw [pow_addrW]
    simpa [addrFits] using ha
  have ht : (addrBytes c a ++ l).take c.addrW.bytes = addrBytes c a := by simp [addrBytes]
  rw [readAddr, ht, addrBytes, leNat_leBytes _ h]
  simp

/-- Writing an address that was read. -/
theorem addrBytes_readAddr {c : Config} {bs : List Byte} (h : c.addrW.bytes ≤ bs.length) :
    addrBytes c (readAddr c bs) = bs.take c.addrW.bytes := by
  have h1 := leNat_lt (bs.take c.addrW.bytes)
  have h2 : (bs.take c.addrW.bytes).length = c.addrW.bytes := by simp [h]
  have h3 : (256 : Nat) ^ c.addrW.bytes ≤ 2 ^ 32 := by cases c.addrW <;> decide
  rw [h2] at h1
  have hv : (readAddr c bs).toNat = leNat (bs.take c.addrW.bytes) := by
    simp only [readAddr, BitVec.toNat_ofNat]
    exact Nat.mod_eq_of_lt (by omega)
  rw [addrBytes, hv]
  have h5 := leBytes_leNat (bs.take c.addrW.bytes)
  rwa [h2] at h5

/-- A layout of a legal size has a length the table `WRITE_SIZE` takes. -/
theorem writeSize_layout {c : Config} {z : Width} (h : sizeAllowed c z = true) :
    writeSize c (1 + c.addrW.bytes + z.bytes) = some z := by
  unfold writeSize
  cases ha : c.addrW <;> cases z <;> simp_all [writeSizeRows, AddrWidth.bytes, Width.bytes, List.lookup, Option.filter]

/-- What the table `WRITE_SIZE` answers. -/
theorem writeSize_some {c : Config} {len : Nat} {z : Width} (h : writeSize c len = some z) :
    sizeAllowed c z = true ∧ len = 1 + c.addrW.bytes + z.bytes := by
  unfold writeSize at h
  cases ha : c.addrW <;> cases z <;> cases hs : c.support64 <;>
    simp only [ha, writeSizeRows, AddrWidth.bytes, Width.bytes, sizeAllowed, List.lookup] at h ⊢ <;>
    (repeat' split at h) <;> simp_all [Option.filter, sizeAllowed]

/-- A layout of `n` entries has a length the table `CFG_COUNT` takes. -/
theorem cfgCount_layout (c : Config) (n : Nat) : cfgCount c (1 + n * (1 + c.addrW.bytes)) = some n := by
  unfold cfgCount
  cases c.addrW <;> simp [AddrWidth.bytes]

/-- What the table `CFG_COUNT` answers. -/
theorem cfgCount_some {c : Config} {len n : Nat} (h : cfgCount c len = some n) :
    len = 1 + n * (1 + c.addrW.bytes) := by
  unfold cfgCount at h
  cases ha : c.addrW <;> simp only [ha, AddrWidth.bytes] at h ⊢ <;> split at h <;> simp at h <;> omega

/-- Reading a WRITE payload that was written. -/
theorem readWrite_payload {c : Config} {o : Operands WriteFields}
    (h : o.ok (fun f => sizeAllowed c f.width && decide (f.data.length = f.width.bytes) &&
      addrFits c f.address) (fun n => (writeSize c n).isNone) = true) :
    readWrite c (writePayload c o) = o := by
  cases o with
  | badLength p =>
    simp only [Operands.ok, Option.isNone_iff_eq_none] at h
    simp [writePayload, readWrite, h]
  | fields f =>
    simp only [Operands.ok, Bool.and_eq_true, decide_eq_true_eq] at h
    have hl : writeSize c (writePayload c (.fields f)).length = some f.width := by
      rw [← writeSize_layout h.1.1]
      congr 1
      simp [writePayload, h.1.2]
      omega
    simp only [readWrite, hl]
    simp only [writePayload, List.getD_cons_zero, List.drop_succ_cons, List.drop_zero, readAddr_bytes h.2]
    rw [Nat.add_comm 1, List.drop_succ_cons, List.drop_left' (addrBytes_length _ _)]

/-- Writing a WRITE payload that was read. -/
theorem writePayload_read (c : Config) (p : List Byte) :
    writePayload c (readWrite c p) = p ∧
    (readWrite c p).ok (fun f => sizeAllowed c f.width && decide (f.data.length = f.width.bytes) &&
      addrFits c f.address) (fun n => (writeSize c n).isNone) = true := by
  unfold readWrite
  cases h : writeSize c p.length with
  | none => simp [writePayload, Operands.ok, h]
  | some z =>
    have h1 := writeSize_some h
    cases p with
    | nil =>
      have hl := h1.2
      simp only [List.length_nil] at hl
      omega
    | cons x p =>
      simp only [List.length_cons] at h1
      have h2 : c.addrW.bytes ≤ p.length := by omega
      simp only [writePayload, List.getD_cons_zero, List.drop_succ_cons, List.drop_zero,
        addrBytes_readAddr h2, Operands.ok, h1.1, readAddr_fits, Bool.true_and, Bool.and_true,
        decide_eq_true_eq]
      rw [Nat.add_comm 1, List.drop_succ_cons, List.take_append_drop]
      refine ⟨rfl, ?_⟩
      simp
      omega

theorem entriesBytes_length (c : Config) (es : List CfgEntry) :
    (entriesBytes c es).length = es.length * (1 + c.addrW.bytes) := by
  induction es with
  | nil => simp [entriesBytes]
  | cons e es ih =>
    simp [entriesBytes, ih, Nat.add_mul]
    omega

/-- Reading LOGCFG entries that were written. -/
theorem readEntries_bytes {c : Config} : ∀ {es : List CfgEntry},
    (∀ e ∈ es, addrFits c e.address = true) → readEntries c es.length (entriesBytes c es) = es
  | [], _ => rfl
  | e :: es, h => by
    simp only [List.length_cons, entriesBytes, readEntries, List.getD_cons_zero, List.drop_succ_cons,
      List.drop_zero, readAddr_bytes (h e List.mem_cons_self)]
    rw [Nat.add_comm 1, List.drop_succ_cons, List.drop_left' (addrBytes_length _ _),
      readEntries_bytes (fun e' h' => h e' (List.mem_cons_of_mem _ h'))]

/-- Writing LOGCFG entries that were read. -/
theorem entriesBytes_read (c : Config) : ∀ (n : Nat) (bs : List Byte),
    bs.length = n * (1 + c.addrW.bytes) →
    entriesBytes c (readEntries c n bs) = bs ∧ ∀ e ∈ readEntries c n bs, addrFits c e.address = true
  | 0, bs, h => by
    simp only [Nat.zero_mul, List.length_eq_zero_iff] at h
    simp [h, readEntries, entriesBytes]
  | n + 1, [], h => by
    simp only [List.length_nil, Nat.add_mul] at h
    omega
  | n + 1, b :: bs, h => by
    simp only [List.length_cons, Nat.add_mul] at h
    have h2 : c.addrW.bytes ≤ bs.length := by omega
    have ih := entriesBytes_read c n (bs.drop c.addrW.bytes) (by simp; omega)
    rw [readEntries, Nat.add_comm 1]
    simp only [entriesBytes, List.getD_cons_zero, List.drop_succ_cons, List.drop_zero,
      addrBytes_readAddr h2, ih.1, List.take_append_drop, List.mem_cons, true_and]
    rintro e (rfl | he)
    · exact readAddr_fits _ _
    · exact ih.2 e he

/-- Reading a LOGCFG payload that was written. -/
theorem readCfg_payload {c : Config} {o : Operands CfgFields}
    (h : o.ok (fun f => f.entries.all fun e => addrFits c e.address)
      (fun n => (cfgCount c n).isNone) = true) : readCfg c (cfgPayload c o) = o := by
  cases o with
  | badLength p =>
    simp only [Operands.ok, Option.isNone_iff_eq_none] at h
    simp [cfgPayload, readCfg, h]
  | fields f =>
    simp only [Operands.ok, List.all_eq_true] at h
    have hl : cfgCount c (cfgPayload c (.fields f)).length = some f.entries.length := by
      rw [← cfgCount_layout c f.entries.length]
      congr 1
      simp [cfgPayload, entriesBytes_length]
      omega
    simp only [readCfg, hl]
    simp only [cfgPayload, List.getD_cons_zero, List.drop_succ_cons, List.drop_zero, readEntries_bytes h]

/-- Writing a LOGCFG payload that was read. -/
theorem cfgPayload_read (c : Config) (p : List Byte) :
    cfgPayload c (readCfg c p) = p ∧
    (readCfg c p).ok (fun f => f.entries.all fun e => addrFits c e.address)
      (fun n => (cfgCount c n).isNone) = true := by
  unfold readCfg
  cases h : cfgCount c p.length with
  | none => simp [cfgPayload, Operands.ok, h]
  | some z =>
    have h1 := cfgCount_some h
    cases p with
    | nil =>
      simp only [List.length_nil] at h1
      omega
    | cons x p =>
      have hr := entriesBytes_read c z p (by simp only [List.length_cons] at h1; omega)
      simp only [cfgPayload, List.getD_cons_zero, List.drop_succ_cons, List.drop_zero, Operands.ok,
        hr.1, List.all_eq_true, true_and]
      exact hr.2

/-- Writing a number of `n` bytes that was read. -/
theorem leBytes_of_read {n w : Nat} {p : List Byte} (h : p.length = n) (hw : 256 ^ n = 2 ^ w) :
    leBytes n (BitVec.ofNat w (leNat p)).toNat = p := by
  have hl := leNat_lt p
  subst h
  rw [BitVec.toNat_ofNat, Nat.mod_eq_of_lt (by omega), leBytes_leNat]

/-- Reading a LOGPERIOD payload that was written. -/
theorem readPeriod_payload {o : Operands Half}
    (h : o.ok (fun _ => true) (fun n => decide (n ≠ 2)) = true) : readPeriod (periodPayload o) = o := by
  cases o with
  | badLength p =>
    simp only [Operands.ok, decide_eq_true_eq] at h
    simp [periodPayload, readPeriod, h]
  | fields f => simp [periodPayload, readPeriod, leNat_leBytes 2 (show f.toNat < 256 ^ 2 from f.isLt)]

/-- Reading an AUTH payload that was written. -/
theorem readAuth_payload {o : Operands Word}
    (h : o.ok (fun _ => true) (fun n => decide (n ≠ 4)) = true) : readAuth (authPayload o) = o := by
  cases o with
  | badLength p =>
    simp only [Operands.ok, decide_eq_true_eq] at h
    simp [authPayload, readAuth, h]
  | fields f => simp [authPayload, readAuth, leNat_leBytes 4 (show f.toNat < 256 ^ 4 from f.isLt)]

/-- Reading a DUMP payload that was written. -/
theorem readDump_payload {c : Config} {o : Operands DumpFields}
    (h : o.ok (fun f => addrFits c f.address) (fun n => decide (n ≠ c.addrW.bytes + 2)) = true) :
    readDump c (dumpPayload c o) = o := by
  cases o with
  | badLength p =>
    simp only [Operands.ok, decide_eq_true_eq] at h
    simp [dumpPayload, readDump, h]
  | fields f =>
    simp only [Operands.ok] at h
    simp only [dumpPayload, readDump, List.length_append, addrBytes_length, leBytes_length, if_true,
      readAddr_bytes h]
    rw [List.drop_left' (addrBytes_length _ _),
      leNat_leBytes 2 (show f.length.toNat < 256 ^ 2 from f.length.isLt)]
    simp

/-- Writing a LOGPERIOD payload that was read. -/
theorem periodPayload_read (p : List Byte) :
    periodPayload (readPeriod p) = p ∧
    (readPeriod p).ok (fun _ => true) (fun n => decide (n ≠ 2)) = true := by
  unfold readPeriod
  split
  · rename_i h
    simp only [periodPayload, leBytes_of_read (w := 16) h (by decide), Operands.ok, and_self]
  · rename_i h
    simp [periodPayload, Operands.ok, h]

/-- Writing an AUTH payload that was read. -/
theorem authPayload_read (p : List Byte) :
    authPayload (readAuth p) = p ∧ (readAuth p).ok (fun _ => true) (fun n => decide (n ≠ 4)) = true := by
  unfold readAuth
  split
  · rename_i h
    simp only [authPayload, leBytes_of_read (w := 32) h (by decide), Operands.ok, and_self]
  · rename_i h
    simp [authPayload, Operands.ok, h]

/-- Writing a DUMP payload that was read. -/
theorem dumpPayload_read (c : Config) (p : List Byte) :
    dumpPayload c (readDump c p) = p ∧
    (readDump c p).ok (fun f => addrFits c f.address) (fun n => decide (n ≠ c.addrW.bytes + 2)) = true := by
  unfold readDump
  split
  · rename_i h
    have h2 : (p.drop c.addrW.bytes).length = 2 := by
      simp
      omega
    simp only [dumpPayload, addrBytes_readAddr (show c.addrW.bytes ≤ p.length by omega),
      leBytes_of_read (w := 16) h2 (by decide), Operands.ok, readAddr_fits, List.take_append_drop, and_self]
  · rename_i h
    simp [dumpPayload, Operands.ok, h]

/-- Every request the decoder answers has an opcode. -/
theorem decodeRequest_opcode (c : Config) (seq : Byte) (p : List Byte) :
    ∃ op, (decodeRequest c seq p).opcode = some op := by
  unfold decodeRequest
  split <;> exact ⟨_, rfl⟩

/-- What a body that decodes looks like. -/
theorem decode_body_ok {c : Config} {bytes : List Byte} {i : Instr} (h : decode c .body bytes = .ok i) :
    ∃ seq p x, bytes = seq :: p ++ [x] ∧ crc8 c.crcTable bytes = 0#8 ∧ i = decodeRequest c seq p := by
  simp only [decode, decodeBody] at h
  split at h
  · cases h
  split at h
  · cases h
  rename_i h1 h2
  cases h
  match bytes, h1 with
  | [], h1 => simp at h1
  | [_], h1 => simp at h1
  | seq :: y :: l, _ =>
    refine ⟨seq, (y :: l).dropLast, (y :: l).getLast (by simp), ?_, by simpa using h2, by simp⟩
    rw [List.cons_append, List.dropLast_append_getLast]

end Sys2Proof.Machine
end

