-- ==== Sys2Proof/Laws/Events.lean ====
section
/-! SUPPORT. Everything an event can come to: the one step, its five forms, the parts of a `TICK`, and one
step of a run. -/

namespace Sys2Proof.Machine

/-- The first step of a run (Host.Core.run). -/
theorem run_next {n : Nat} {s t : State} (h : step s = .next t) :
    Host.Core.run Sys2Proof.core (n + 1) s = Host.Core.run Sys2Proof.core n t := by
  have gen : ∀ (M : Host.Core) (a b : M.State), M.step a = .next b →
      Host.Core.run M (n + 1) a = Host.Core.run M n b := by
    intro M a b hab
    simp only [Host.Core.run, hab]
  exact gen Sys2Proof.core s t h

theorem andThen_assoc (r : Result) (f g : State → Result) :
    andThen (andThen r f) g = andThen r fun s => andThen (f s) g := by
  cases r <;> rfl

/-- A next state after two steps in a row comes from a next state in between. -/
theorem andThen_eq_next {r : Result} {f : State → Result} {t : State} (h : andThen r f = .next t) :
    ∃ s, r = .next s ∧ f s = .next t := by
  cases r with
  | next s => exact ⟨s, rfl, h⟩
  | fault e => cases h
  | refused e => cases h

/-- `RX_PUSH` by the value of the byte (41_frame_receiver.md R140, R141). -/
theorem rxPush_eq (b : Byte) (s : State) :
    rxPush b s =
      .next
        (if b = 0xC0#8 then receive State.rxOpen delimiterInFrame malformedEscape s
        else if b = 0xDB#8 then receive id (State.setRxState .escaping) malformedEscape s
        else if b = 0xDC#8 then receive id (State.rxAppend tfendByte) (State.rxAppend fendByte) s
        else if b = 0xDD#8 then receive id (State.rxAppend tfescByte) (State.rxAppend fescByte) s
        else receiveOrdinary b s) := by
  have hd : decode s.cfg .wire [b] =
      match decodeWireByte b with
      | some i => .ok i
      | none => .error .ordinaryByte := rfl
  simp only [rxPush, hd, decodeWireByte, fendByte, fescByte, tfendByte, tfescByte]
  by_cases h1 : b = 0xC0#8
  · subst h1
    rfl
  by_cases h2 : b = 0xDB#8
  · subst h2
    rfl
  by_cases h3 : b = 0xDC#8
  · subst h3
    rfl
  by_cases h4 : b = 0xDD#8
  · subst h4
    rfl
  simp [h1, h2, h3, h4]

/-- T1 changes the receiver and the record alone, and never completes a frame (41_frame_receiver.md
R150). -/
theorem rxTimeout_frame (e : Half) (s : State) :
    (rxTimeout e s).cfg = s.cfg ∧ (rxTimeout e s).tx = s.tx ∧ (rxTimeout e s).session = s.session ∧
    (rxTimeout e s).targets = s.targets ∧ (rxTimeout e s).env = s.env ∧
    (rxTimeout e s).trace.ports = s.trace.ports ∧
    (s.rx.state = .complete → rxTimeout e s = s) ∧
    (s.rx.state ≠ .complete → (rxTimeout e s).rx.state ≠ .complete) := by
  unfold rxTimeout
  split
  · rename_i hs
    have hc : s.rx.state ≠ .complete := by rcases hs with h | h <;> simp [h]
    split
    · exact ⟨rfl, rfl, rfl, rfl, rfl, rfl, fun h => absurd h hc, fun _ => by simp⟩
    · exact ⟨rfl, rfl, rfl, rfl, rfl, rfl, fun h => absurd h hc, fun h => h⟩
  · exact ⟨rfl, rfl, rfl, rfl, rfl, rfl, fun _ => rfl, fun h => h⟩

/-- T2: nothing to consume, a body dropped, or its request run; a consumed body leaves the receiver
cleared (43_dispatch_and_reply.md R181). -/
theorem consume_cases {s t : State} (h : consume s = .next t) :
    (s.rx.state ≠ .complete ∧ t = s) ∨ (s.rx.state = .complete ∧ t = (dropBody s).rxReset) ∨
    ∃ i u, s.rx.state = .complete ∧ decode s.cfg .body s.rxBody = .ok i ∧ exec i s = .next u ∧
      t = u.rxReset := by
  unfold consume at h
  split at h
  · rename_i hc
    obtain ⟨u, hu, ht⟩ := andThen_eq_next h
    cases ht
    split at hu
    · rename_i i hd
      exact .inr (.inr ⟨i, u, hc, hd, hu, rfl⟩)
    · cases hu
      exact .inr (.inl ⟨hc, rfl⟩)
  · cases h
    exact .inl ⟨‹_›, rfl⟩

/-- T1 to T5 in order (43_dispatch_and_reply.md R180). -/
theorem tick_cases {e : Half} {s t : State} (h : tick e s = .next t) :
    ∃ s2 s3, consume (rxTimeout e s) = .next s2 ∧ exec .reply s2 = .next s3 ∧
      sampler e (watchdog e s3) = .next t := by
  obtain ⟨s2, h2, h⟩ := andThen_eq_next h
  obtain ⟨s3, h3, h⟩ := andThen_eq_next h
  exact ⟨s2, s3, h2, h3, h⟩

/-- One step with a next state: the parameters are in their bounds, and the step is one of the four
events, or nothing came (00_scope.md R13). -/
theorem step_cases {s t : State} (h : step s = .next t) :
    configOk s.cfg = true ∧
    ((s.env.inputs = [] ∧ t = s.begin []) ∨
      (∃ rest, s.env.inputs = .reset :: rest ∧ t = resetEvent (s.begin rest)) ∨
      (∃ b rest, s.env.inputs = .rxPush b :: rest ∧ rxPush b (s.begin rest) = .next t) ∨
      (∃ rest, s.env.inputs = .txPull :: rest ∧ t = txPull (s.begin rest)) ∨
      ∃ e rest, s.env.inputs = .tick e :: rest ∧ tick e (s.begin rest) = .next t) := by
  unfold step stepState at h
  split at h
  · rename_i hc
    refine ⟨hc, ?_⟩
    split at h
    · rename_i hi
      cases h
      exact .inl ⟨hi, rfl⟩
    · rename_i ev rest hi
      cases ev with
      | reset =>
        cases h
        exact .inr (.inl ⟨rest, hi, rfl⟩)
      | rxPush b => exact .inr (.inr (.inl ⟨b, rest, hi, h⟩))
      | txPull =>
        cases h
        exact .inr (.inr (.inr (.inl ⟨rest, hi, rfl⟩)))
      | tick e => exact .inr (.inr (.inr (.inr ⟨e, rest, hi, h⟩)))
  · cases h

end Sys2Proof.Machine
end

