-- ==== Sys2Proof/Laws/Handlers.lean ====
section
/-! SUPPORT. Everything a request can come to: the outcomes of the gate and of a handler as cases, and
for the handlers that do more than one thing (WRITE, LOGCFG, BYPASS) what each of them can do. -/

namespace Sys2Proof.Machine

/-- The gate: two cases (43_dispatch_and_reply.md R184). -/
theorem privileged_cases (m : Nibble) (h : Handler) (s : State) :
    (s.session.isAuthenticated = false ∧ privileged m h s = s.absorb .auth) ∨
    (s.session.isAuthenticated = true ∧ privileged m h s = runHandler m h s) := by
  cases ha : s.session.isAuthenticated
  · exact .inl ⟨rfl, privileged_unauthenticated ha⟩
  · exact .inr ⟨rfl, privileged_authenticated ha⟩

/-- The outcome of a handler: three cases (43_dispatch_and_reply.md R187 to R190). -/
theorem runHandler_cases (m : Nibble) (h : Handler) (s : State) :
    (∃ u, h (s.setPending emptyBlock) = (.success, u) ∧
      runHandler m h s = (u.accept m).setReplyPending true) ∨
    (∃ u, h (s.setPending emptyBlock) = (.successNoReply, u) ∧ runHandler m h s = u.accept m) ∨
    (∃ u cls, h (s.setPending emptyBlock) = (.error cls, u) ∧ runHandler m h s = u.absorb cls) := by
  obtain ⟨v, hv⟩ : ∃ v, (h (s.setPending emptyBlock)).1 = v := ⟨_, rfl⟩
  have he : h (s.setPending emptyBlock) = (v, (h (s.setPending emptyBlock)).2) := Prod.ext hv rfl
  cases v with
  | success => exact .inl ⟨_, he, runHandler_success he⟩
  | successNoReply => exact .inr (.inl ⟨_, he, runHandler_successNoReply he⟩)
  | error cls => exact .inr (.inr ⟨_, cls, he, runHandler_error he⟩)

/-- A relation between the state before and after that holds of the handler, and that the dispatcher's
own changes respect, holds of the whole request. -/
theorem runHandler_rel {R : State → State → Prop} {m : Nibble} {h : Handler} {s : State}
    (ho : R s (h (s.setPending emptyBlock)).2)
    (h1 : ∀ u, R s u → R s ((u.accept m).setReplyPending true)) (h2 : ∀ u, R s u → R s (u.accept m))
    (h3 : ∀ u cls, R s u → R s (u.absorb cls)) : R s (runHandler m h s) := by
  rcases runHandler_cases m h s with ⟨u, e, r⟩ | ⟨u, e, r⟩ | ⟨u, cls, e, r⟩ <;> rw [e] at ho <;> rw [r]
  · exact h1 u ho
  · exact h2 u ho
  · exact h3 u cls ho

/-- The same behind the gate. -/
theorem privileged_rel {R : State → State → Prop} {m : Nibble} {h : Handler} {s : State} (hr : R s s)
    (ho : s.session.isAuthenticated = true → R s (h (s.setPending emptyBlock)).2)
    (h1 : ∀ u, R s u → R s ((u.accept m).setReplyPending true)) (h2 : ∀ u, R s u → R s (u.accept m))
    (h3 : ∀ u cls, R s u → R s (u.absorb cls)) : R s (privileged m h s) := by
  rcases privileged_cases m h s with ⟨_, e⟩ | ⟨ha, e⟩ <;> rw [e]
  · exact h3 s _ hr
  · exact runHandler_rel (ho ha) h1 h2 h3

/-- A reserved opcode adds one class and does nothing else (44_commands.md R227). -/
theorem reservedOpcode_cases (s : State) : ∃ cls, reservedOpcode s = s.absorb cls := by
  unfold reservedOpcode
  split <;> exact ⟨_, rfl⟩

/-- WRITE: refused before any access, faulted, or stored (44_commands.md R213). -/
theorem handleWrite_cases (o : Operands WriteFields) (s : State) :
    handleWrite o s = (.error .validation, s) ∨
    ∃ f, o = .fields f ∧ f.sizeByte.toNat = f.width.bytes ∧
      ((memWriteOk s = false ∧
          handleWrite o s = (.error .access, (memWrite f.address f.width f.data s).2)) ∨
        (memWriteOk s = true ∧
          handleWrite o s =
            (if s.session.isLoggingEnabled then .successNoReply else .success,
              (memWrite f.address f.width f.data s).2))) := by
  cases o with
  | badLength p => exact .inl rfl
  | fields f =>
    by_cases h : f.sizeByte.toNat = f.width.bytes
    · refine .inr ⟨f, rfl, h, ?_⟩
      cases hw : memWriteOk s
      · simp [handleWrite, h, memWrite, hw, afterAccess]
      · exact .inr ⟨rfl, by simp only [handleWrite, h, memWrite, hw, ne_eq, not_true, if_false]; rfl⟩
    · exact .inl (by simp [handleWrite, h])

/-- The array keeps its size. -/
theorem storeEntries_length (c : Config) : ∀ (es : List CfgEntry) (i : Nat) (ts : List Target),
    (storeEntries c i es ts).1.length = ts.length
  | [], _, _ => rfl
  | e :: es, i, ts => by
    unfold storeEntries
    split
    · rfl
    · rw [storeEntries_length c es]
      simp

/-- Entries that all have a legal size are stored one after another (44_commands.md R220). -/
theorem storeEntries_all (c : Config) : ∀ (es : List CfgEntry) (sizes : List Width) (i : Nat) (ts : List Target),
    (es.map fun e => widthOfByte c e.sizeByte) = sizes.map some → i + es.length ≤ ts.length →
    storeEntries c i es ts =
      (ts.take i ++ List.zipWith (fun e w => (⟨e.address, w⟩ : Target)) es sizes ++ ts.drop (i + es.length),
        true)
  | [], sizes, i, ts, _, _ => by simp [storeEntries]
  | e :: es, [], i, ts, h, _ => by simp at h
  | e :: es, w :: sizes, i, ts, h, hl => by
    simp only [List.map_cons, List.cons.injEq] at h
    simp only [List.length_cons] at hl
    rw [storeEntries, h.1]
    simp only []
    rw [storeEntries_all c es sizes (i + 1) _ h.2 (by simp; omega)]
    have h1 : (ts.set i ⟨e.address, w⟩).take (i + 1) = ts.take i ++ [⟨e.address, w⟩] := by
      rw [List.take_add_one, List.getElem?_set_self (by omega), List.take_set_of_le (by omega)]
      rfl
    rw [h1, List.drop_set_of_lt (by omega)]
    simp [Nat.add_assoc, Nat.add_comm 1]

/-- A size byte outside `SIZES` stops the loop (44_commands.md R221). -/
theorem storeEntries_bad (c : Config) : ∀ (es : List CfgEntry) (i : Nat) (ts : List Target),
    (∃ e ∈ es, widthOfByte c e.sizeByte = none) → (storeEntries c i es ts).2 = false
  | [], _, _, h => by simp at h
  | e :: es, i, ts, h => by
    rw [storeEntries]
    split
    · rfl
    · rename_i w hw
      apply storeEntries_bad
      obtain ⟨e', h1, h2⟩ := h
      rcases List.mem_cons.1 h1 with rfl | h1
      · rw [hw] at h2
        cases h2
      · exact ⟨e', h1, h2⟩

/-- Every entry of the array is an old one or a new one of a legal size. -/
theorem storeEntries_mem (c : Config) : ∀ (es : List CfgEntry) (i : Nat) (ts : List Target),
    (∀ e ∈ es, addrFits c e.address = true) →
    (∀ e ∈ ts, addrFits c e.address = true ∧ sizeAllowed c e.size = true) →
    ∀ e ∈ (storeEntries c i es ts).1, addrFits c e.address = true ∧ sizeAllowed c e.size = true
  | [], _, _, _, h => h
  | x :: es, i, ts, hx, h => by
    unfold storeEntries
    split
    · exact h
    · rename_i w hw
      apply storeEntries_mem c es _ _ (fun e he => hx e (List.mem_cons_of_mem _ he))
      intro e he
      rcases List.mem_or_eq_of_mem_set he with he | rfl
      · exact h e he
      · refine ⟨hx x List.mem_cons_self, ?_⟩
        unfold widthOfByte at hw
        simp only [Option.filter_eq_some_iff] at hw
        exact hw.2

/-- LOGCFG with its length accepted, on a state that differs in `stagedCount` alone: the configuration is
discarded, or a new one staged within both bounds (44_commands.md R220, R221). -/
theorem appendEntries_cases (f : CfgFields) (n0 : Nat) (s : State) :
    (∃ array, array.length = s.targets.entries.length ∧
      appendEntries f (s.setStaged n0) = (.error .validation, { s with targets := ⟨array, 0, 0⟩ })) ∨
    (∃ array c n, array.length = s.targets.entries.length ∧ n ≤ s.cfg.nTargets ∧
      sizeSum array n ≤ s.cfg.maxPayload ∧ (c = s.targets.committedCount ∨ c = n) ∧
      appendEntries f (s.setStaged n0) =
        (.success, { s with
          targets := ⟨array, c, n⟩, session := { s.session with isLoggingEnabled := false } })) := by
  unfold appendEntries
  split
  · exact .inl ⟨s.targets.entries, rfl, rfl⟩
  · rename_i hle
    have hl := storeEntries_length s.cfg f.entries n0 s.targets.entries
    have hle' : n0 + f.entries.length ≤ s.cfg.nTargets := by simpa using hle
    change storeEntries (s.setStaged n0).cfg (s.setStaged n0).targets.stagedCount f.entries
      (s.setStaged n0).targets.entries |>.1.length = _ at hl
    split
    · rename_i ts heq
      rw [heq] at hl
      exact .inl ⟨ts, hl, rfl⟩
    · rename_i ts heq
      rw [heq] at hl
      simp only []
      split
      · exact .inl ⟨ts, hl, rfl⟩
      · rename_i hs
        have hs' : sizeSum ts (n0 + f.entries.length) ≤ s.cfg.maxPayload := by simpa using hs
        cases he : cfgEnd f.flags
        · exact .inr ⟨ts, s.targets.committedCount, n0 + f.entries.length, hl, hle', hs', .inl rfl,
            by simp [finishCfg, he, State.setLogging, State.setStaged]⟩
        · exact .inr ⟨ts, n0 + f.entries.length, n0 + f.entries.length, hl, hle', hs', .inr rfl,
            by simp [finishCfg, he, State.setLogging, State.setStaged]⟩

/-- LOGCFG: the configuration is discarded, or a new one staged within both bounds, and logging off
(44_commands.md R220, R221). -/
theorem handleLogcfg_cases (o : Operands CfgFields) (s : State) :
    (∃ array, array.length = s.targets.entries.length ∧
      handleLogcfg o s = (.error .validation, { s with targets := ⟨array, 0, 0⟩ })) ∨
    (∃ array c n, array.length = s.targets.entries.length ∧ n ≤ s.cfg.nTargets ∧
      sizeSum array n ≤ s.cfg.maxPayload ∧ (c = s.targets.committedCount ∨ c = n) ∧
      handleLogcfg o s =
        (.success, { s with
          targets := ⟨array, c, n⟩, session := { s.session with isLoggingEnabled := false } })) := by
  cases o with
  | badLength p => exact .inl ⟨s.targets.entries, rfl, rfl⟩
  | fields f =>
    simp only [handleLogcfg]
    split
    · exact appendEntries_cases f 0 s
    · exact appendEntries_cases f s.targets.stagedCount s

/-- BYPASS: no capability, or one call whose answer decides (44_commands.md R225, R226). -/
theorem handleBypass_cases (p : List Byte) (s : State) :
    (s.cfg.bypass = false ∧ handleBypass p s = (.error .validation, s.setLogging false)) ∨
    (s.cfg.bypass = true ∧ ∃ v b,
      ((v = .error .validation ∧ b = s.session.pendingBlock) ∨
        (v = .success ∧
          b = capBlock s.cfg (wrapAddr s.cfg (bypassAnswer p s).address 0) (bypassAnswer p s).length)) ∧
      handleBypass p s =
        (v, State.record (.bypassCall p (bypassAnswer p s))
          { s with
            env.memory := memPutCells s.cfg (bypassAnswer p s).stores s.env.memory
            env.bypass := s.env.bypass.tail
            env.freeCount := s.env.freeCount + 1
            session := { s.session with isLoggingEnabled := false, pendingBlock := b } })) := by
  cases hb : s.cfg.bypass
  · exact .inl ⟨rfl, by simp [handleBypass, hb]⟩
  · refine .inr ⟨rfl, ?_⟩
    have h1 : bypassAnswer p (s.setLogging false) = bypassAnswer p s := rfl
    cases hs : (bypassAnswer p s).success
    · refine ⟨_, _, .inl ⟨rfl, rfl⟩, ?_⟩
      simp only [handleBypass, hb, if_true, invokeBypass, bypassCall, h1, hs]
      rfl
    · refine ⟨_, _, .inr ⟨rfl, rfl⟩, ?_⟩
      simp only [handleBypass, hb, if_true, invokeBypass, bypassCall, h1, hs]
      rfl

end Sys2Proof.Machine
end

