-- ==== Sys2Proof/Laws/Memory.lean ====
section
/-! SUPPORT. Device memory: reading after writing, and the canonical form. -/

namespace Sys2Proof.Machine

/-- A memory that starts above `lo` also starts above anything lower. -/
theorem memoryWfFrom_mono {lo lo' : Nat} (h : lo' ≤ lo) :
    ∀ {m : Memory}, memoryWfFrom lo m = true → memoryWfFrom lo' m = true
  | [], _ => rfl
  | (k, v) :: m, hm => by
    simp only [memoryWfFrom, Bool.and_eq_true, decide_eq_true_eq] at hm ⊢
    exact ⟨⟨by omega, hm.1.2⟩, hm.2⟩

/-- Below its first address a canonical memory reads as unlisted. -/
theorem memGet_below {lo a : Nat} (ha : a < lo) :
    ∀ {m : Memory}, memoryWfFrom lo m = true → memGet m a = unlistedByte
  | [], _ => rfl
  | (k, v) :: m, hm => by
    simp only [memoryWfFrom, Bool.and_eq_true, decide_eq_true_eq] at hm
    have hk : ¬ a = k := by omega
    simp only [memGet, if_neg hk]
    exact memGet_below (lo := k + 1) (by omega) hm.2

/-- A write keeps the canonical form above `lo`. -/
theorem memPut_wfFrom {lo a : Nat} (ha : lo ≤ a) (b : Byte) :
    ∀ {m : Memory}, memoryWfFrom lo m = true → memoryWfFrom lo (memPut m a b) = true
  | [], _ => by
    by_cases hb : b = unlistedByte <;> simp [memPut, memoryWfFrom, hb, ha]
  | (k, v) :: m, hm => by
    have hm' := hm
    simp only [memoryWfFrom, Bool.and_eq_true, decide_eq_true_eq] at hm'
    obtain ⟨⟨hk, hv⟩, hr⟩ := hm'
    simp only [memPut]
    split
    · split
      · exact hm
      · rename_i h1 h2
        simp only [memoryWfFrom, Bool.and_eq_true, decide_eq_true_eq]
        exact ⟨⟨ha, h2⟩, ⟨by omega, hv⟩, hr⟩
    · split
      · split
        · exact memoryWfFrom_mono (by omega) hr
        · rename_i h1 h2 h3
          simp only [memoryWfFrom, Bool.and_eq_true, decide_eq_true_eq]
          exact ⟨⟨ha, h3⟩, h2 ▸ hr⟩
      · rename_i h1 h2
        simp only [memoryWfFrom, Bool.and_eq_true, decide_eq_true_eq]
        exact ⟨⟨hk, hv⟩, memPut_wfFrom (by omega) b hr⟩

/-- Every write keeps the canonical form. -/
theorem memPut_wf {m : Memory} (h : m.wf = true) (a : Nat) (b : Byte) : (memPut m a b).wf = true :=
  memPut_wfFrom (Nat.zero_le a) b h

/-- Reading after a write: the byte written there, every other byte as before. -/
theorem memGet_memPut_from {lo a : Nat} (b : Byte) (x : Nat) :
    ∀ {m : Memory}, memoryWfFrom lo m = true → memGet (memPut m a b) x = if x = a then b else memGet m x
  | [], _ => by
    by_cases hb : b = unlistedByte <;> by_cases hx : x = a <;> simp [memPut, memGet, hb, hx]
  | (k, v) :: m, hm => by
    simp only [memoryWfFrom, Bool.and_eq_true, decide_eq_true_eq] at hm
    obtain ⟨⟨hk, hv⟩, hr⟩ := hm
    have low : ∀ y, y ≤ k → memGet m y = unlistedByte := fun y hy => memGet_below (by omega) hr
    simp only [memPut]
    by_cases h1 : a < k
    · simp only [if_pos h1]
      by_cases hb : b = unlistedByte
      · by_cases hx : x = a
        · subst hx
          simp [hb, memGet, Nat.ne_of_lt h1, low x (by omega)]
        · simp [hb, hx]
      · simp [hb, memGet]
    · simp only [if_neg h1]
      by_cases h2 : a = k
      · subst h2
        by_cases hb : b = unlistedByte
        · by_cases hx : x = a
          · subst hx
            simp [hb, low x (by omega)]
          · simp [hb, hx, memGet]
        · by_cases hx : x = a <;> simp [hb, hx, memGet]
      · simp only [if_neg h2, memGet]
        by_cases hx : x = k
        · subst hx
          simp [show ¬ x = a from fun h => h2 h.symm]
        · simp only [if_neg hx]
          exact memGet_memPut_from b x hr

/-- Reading after a write in a canonical memory. -/
theorem memGet_memPut {m : Memory} (h : m.wf = true) (a x : Nat) (b : Byte) :
    memGet (memPut m a b) x = if x = a then b else memGet m x :=
  memGet_memPut_from b x h

/-- Stored cells lie at old addresses or at the new one. -/
theorem mem_memPut {m : Memory} {a : Nat} {b : Byte} {cell : Host.Cell} (h : cell ∈ memPut m a b) :
    cell.1 = a ∨ cell ∈ m := by
  induction m with
  | nil =>
    by_cases hb : b = unlistedByte <;> simp [memPut, hb] at h
    exact .inl (by rw [h])
  | cons kv m ih =>
    obtain ⟨k, v⟩ := kv
    simp only [memPut] at h
    split at h
    · split at h
      · exact .inr h
      · rcases List.mem_cons.1 h with rfl | h
        · exact .inl rfl
        · exact .inr h
    · split at h
      · split at h
        · exact .inr (List.mem_cons_of_mem _ h)
        · rcases List.mem_cons.1 h with rfl | h
          · exact .inl rfl
          · exact .inr (List.mem_cons_of_mem _ h)
      · rcases List.mem_cons.1 h with rfl | h
        · exact .inr (List.mem_cons_self)
        · rcases ih h with h | h
          · exact .inl h
          · exact .inr (List.mem_cons_of_mem _ h)

/-- A store of several bytes keeps the canonical form. -/
theorem memPutBytes_wf (c : Config) (a : Addr) :
    ∀ (bs : List Byte) (i : Nat) {m : Memory}, m.wf = true → (memPutBytes c a i bs m).wf = true
  | [], _, _, h => h
  | _ :: bs, i, _, h => memPutBytes_wf c a bs (i + 1) (memPut_wf h _ _)

/-- Stores by a bypass capability keep the canonical form. -/
theorem memPutCells_wf (c : Config) :
    ∀ (l : List (Addr × Byte)) {m : Memory}, m.wf = true → (memPutCells c l m).wf = true
  | [], _, h => h
  | (_, _) :: l, _, h => memPutCells_wf c l (memPut_wf h _ _)

/-- An address that none of the stored bytes goes to reads as before. -/
theorem memGet_memPutBytes_outside (c : Config) (a : Addr) (x : Nat) :
    ∀ (bs : List Byte) (i : Nat) {m : Memory}, m.wf = true →
      (∀ j, i ≤ j → j < i + bs.length → x ≠ (wrapAddr c a j).toNat) →
      memGet (memPutBytes c a i bs m) x = memGet m x
  | [], _, _, _, _ => rfl
  | b :: bs, i, m, h, hx => by
    have h0 := hx i (Nat.le_refl i) (by simp)
    rw [memPutBytes, memGet_memPutBytes_outside c a x bs (i + 1) (memPut_wf h _ _)
      (fun j h1 h2 => hx j (by omega) (by simp at h2 ⊢; omega)), memGet_memPut h, if_neg h0]

/-- A wrapped address has `8·ADDR_W` bits. -/
theorem wrapAddr_lt (c : Config) (a : Addr) (i : Nat) :
    (wrapAddr c a i).toNat < 2 ^ (8 * c.addrW.bytes) := by
  have h : (a.toNat + i) % 2 ^ (8 * c.addrW.bytes) < 2 ^ (8 * c.addrW.bytes) :=
    Nat.mod_lt _ (Nat.pos_of_ne_zero (by positivity))
  simp only [wrapAddr, BitVec.toNat_ofNat]
  exact Nat.lt_of_le_of_lt (Nat.mod_le _ _) h

/-- The value of a wrapped address. -/
theorem wrapAddr_toNat (c : Config) (a : Addr) (i : Nat) :
    (wrapAddr c a i).toNat = (a.toNat + i) % 2 ^ (8 * c.addrW.bytes) := by
  have h : (a.toNat + i) % 2 ^ (8 * c.addrW.bytes) < 2 ^ (8 * c.addrW.bytes) :=
    Nat.mod_lt _ (Nat.pos_of_ne_zero (by positivity))
  have h2 : 2 ^ (8 * c.addrW.bytes) ≤ 2 ^ 32 := by
    cases c.addrW <;> simp [AddrWidth.bytes]
  simp only [wrapAddr, BitVec.toNat_ofNat]
  exact Nat.mod_eq_of_lt (by omega)

/-- A store of several bytes stays in the address space. -/
theorem memPutBytes_fits (c : Config) (a : Addr) :
    ∀ (bs : List Byte) (i : Nat) {m : Memory}, (∀ cell ∈ m, cell.1 < 2 ^ (8 * c.addrW.bytes)) →
      ∀ cell ∈ memPutBytes c a i bs m, cell.1 < 2 ^ (8 * c.addrW.bytes)
  | [], _, _, h => h
  | _ :: bs, i, _, h =>
    memPutBytes_fits c a bs (i + 1) fun cell hc => by
      rcases mem_memPut hc with h' | h'
      · rw [h']
        exact wrapAddr_lt c a i
      · exact h cell h'

/-- Stores by a bypass capability stay in the address space. -/
theorem memPutCells_fits (c : Config) :
    ∀ (l : List (Addr × Byte)) {m : Memory}, (∀ cell ∈ m, cell.1 < 2 ^ (8 * c.addrW.bytes)) →
      ∀ cell ∈ memPutCells c l m, cell.1 < 2 ^ (8 * c.addrW.bytes)
  | [], _, h => h
  | (a, _) :: l, _, h =>
    memPutCells_fits c l fun cell hc => by
      rcases mem_memPut hc with h' | h'
      · rw [h']
        exact wrapAddr_lt c a 0
      · exact h cell h'

/-- An address no cell of a bypass answer names reads as before. -/
theorem memGet_memPutCells_outside (c : Config) (x : Nat) :
    ∀ (l : List (Addr × Byte)) {m : Memory}, m.wf = true →
      (∀ cell ∈ l, x ≠ (wrapAddr c cell.1 0).toNat) →
      memGet (memPutCells c l m) x = memGet m x
  | [], _, _, _ => rfl
  | (a, b) :: l, m, h, hx => by
    have h0 := hx (a, b) List.mem_cons_self
    rw [memPutCells, memGet_memPutCells_outside c x l (memPut_wf h _ _)
      (fun cell hc => hx cell (List.mem_cons_of_mem _ hc)), memGet_memPut h, if_neg h0]

/-- Each byte of a store no longer than the address space is read back where it was stored. -/
theorem memGet_memPutBytes_inside (c : Config) (a : Addr) : ∀ (bs : List Byte) (i : Nat) {m : Memory},
    m.wf = true → i + bs.length ≤ 2 ^ (8 * c.addrW.bytes) → ∀ k b, bs[k]? = some b →
      memGet (memPutBytes c a i bs m) (wrapAddr c a (i + k)).toNat = b
  | [], _, _, _, _, k, b, h => by simp at h
  | x :: bs, i, m, hm, hl, k, b, h => by
    simp only [List.length_cons] at hl
    rw [memPutBytes]
    cases k with
    | zero =>
      simp only [List.getElem?_cons_zero, Option.some.injEq] at h
      subst h
      show memGet (memPutBytes c a (i + 1) bs (memPut m (wrapAddr c a i).toNat x)) (wrapAddr c a i).toNat = x
      rw [memGet_memPutBytes_outside c a _ bs (i + 1) (memPut_wf hm _ _), memGet_memPut hm, if_pos rfl]
      intro j h1 h2
      rw [wrapAddr_toNat, wrapAddr_toNat]
      intro h
      have hc := Nat.ModEq.add_left_cancel' _ (show a.toNat + i ≡ a.toNat + j [MOD _] from h)
      rw [Nat.ModEq, Nat.mod_eq_of_lt (by omega), Nat.mod_eq_of_lt (by omega)] at hc
      omega
    | succ k =>
      have ih := memGet_memPutBytes_inside c a bs (i + 1) (m := memPut m (wrapAddr c a i).toNat x)
        (memPut_wf hm _ _) (by omega) k b (by simpa using h)
      rwa [show i + (k + 1) = i + 1 + k by omega]

end Sys2Proof.Machine
end

