-- ==== Sys2Proof/Laws/PerInstr.lean ====
section
/-! SUPPORT. A statement about every instruction as it is encoded: a well-formed request has a body of at
least 2 bytes that the receiver can complete, and a row of the wire layer is one byte. -/

namespace Sys2Proof.Machine

theorem frameBody_length (c : Config) (seq : Byte) (p : List Byte) :
    (frameBody c seq p).length = p.length + 2 := by
  simp [frameBody]

end Sys2Proof.Machine

namespace Sys2Proof.Laws.FitsReceiver

open Sys2Proof.Machine

/-- The encoding of a well-formed instruction has the length its layer allows (30_encoding.md R93,
R94). -/
def Statement (i : Instr) : Prop :=
  ∀ c : Config, i.wellFormed c = true →
    (i.layer = some .body → 2 ≤ (encode c i).length ∧ (encode c i).length < c.rxCap) ∧
    (i.layer = some .wire → (encode c i).length = 1)

/-- All requests at once: the body is `SEQ`, the payload and the CRC. -/
theorem of_request {i : Instr} {op : Nibble} (hl : i.layer = some .body)
    (he : ∀ c, encode c i = encodeRequest c op i) : Statement i := by
  intro c hw
  simp only [Instr.wellFormed, Bool.and_eq_true, decide_eq_true_eq] at hw
  refine ⟨fun _ => ?_, fun h => by simp [hl] at h⟩
  rw [he c, encodeRequest, frameBody_length]
  omega

theorem logstart (m : Nibble) (p : List Byte) : Statement (.logstart m p) :=
  of_request rfl fun _ => rfl
theorem logstop (m : Nibble) (p : List Byte) : Statement (.logstop m p) :=
  of_request rfl fun _ => rfl
theorem logperiod (m : Nibble) (o : Operands Half) : Statement (.logperiod m o) :=
  of_request rfl fun _ => rfl
theorem write (m : Nibble) (o : Operands WriteFields) : Statement (.write m o) :=
  of_request rfl fun _ => rfl
theorem logcfg (m : Nibble) (o : Operands CfgFields) : Statement (.logcfg m o) :=
  of_request rfl fun _ => rfl
theorem auth (m : Nibble) (o : Operands Word) : Statement (.auth m o) :=
  of_request rfl fun _ => rfl
theorem dump (m : Nibble) (o : Operands DumpFields) : Statement (.dump m o) :=
  of_request rfl fun _ => rfl
theorem bypass (m : Nibble) (p : List Byte) : Statement (.bypass m p) :=
  of_request rfl fun _ => rfl
theorem reserved0 (m : Nibble) (p : List Byte) : Statement (.reserved0 m p) :=
  of_request rfl fun _ => rfl
theorem reserved9 (m : Nibble) (p : List Byte) : Statement (.reserved9 m p) :=
  of_request rfl fun _ => rfl
theorem reservedA (m : Nibble) (p : List Byte) : Statement (.reservedA m p) :=
  of_request rfl fun _ => rfl
theorem reservedB (m : Nibble) (p : List Byte) : Statement (.reservedB m p) :=
  of_request rfl fun _ => rfl
theorem reservedC (m : Nibble) (p : List Byte) : Statement (.reservedC m p) :=
  of_request rfl fun _ => rfl
theorem reservedD (m : Nibble) (p : List Byte) : Statement (.reservedD m p) :=
  of_request rfl fun _ => rfl
theorem reservedE (m : Nibble) (p : List Byte) : Statement (.reservedE m p) :=
  of_request rfl fun _ => rfl
theorem reservedF (m : Nibble) (p : List Byte) : Statement (.reservedF m p) :=
  of_request rfl fun _ => rfl
theorem reply : Statement .reply := fun _ _ => ⟨fun h => (by cases h), fun h => (by cases h)⟩
theorem telemetry : Statement .telemetry := fun _ _ => ⟨fun h => (by cases h), fun h => (by cases h)⟩
theorem fend : Statement .fend := fun _ _ => ⟨fun h => (by cases h), fun _ => rfl⟩
theorem fesc : Statement .fesc := fun _ _ => ⟨fun h => (by cases h), fun _ => rfl⟩
theorem tfend : Statement .tfend := fun _ _ => ⟨fun h => (by cases h), fun _ => rfl⟩
theorem tfesc : Statement .tfesc := fun _ _ => ⟨fun h => (by cases h), fun _ => rfl⟩

end Sys2Proof.Laws.FitsReceiver
end

