-- ==== Sys2Proof/Tests/Slice0.lean ====
section
/-! SUPPORT. Tests of one operation or one step, the expected values taken from spec/95_test_vectors.md or
worked out by hand from the rules named; and for every obligation with hypotheses a witness that meets
them. -/

namespace Sys2Proof.Tests

open Sys2Proof Sys2Proof.Machine

/- The kernel evaluates these theorems one after another; elaborated side by side, each would hold a thread
while it waits. -/
set_option Elab.async false

/-! ### Helpers -/

def isNext : Result → Bool
  | .next _ => true
  | _ => false

/-- The next state of an outcome that has one. -/
def got : Result → State
  | .next s => s
  | _ => State.reset

theorem next_of {r : Result} (h : isNext r = true) : r = .next (got r) := by
  cases r with
  | next s => rfl
  | fault e => cases h
  | refused e => cases h

/-- The reference configuration with small buffers. -/
def small : Config := { referenceConfig with rxCap := 16, maxPayload := 10, txCap := 12, nTargets := 3 }

/-- `ADDR_W = 2`, without 8-byte accesses. -/
def narrow : Config := { small with addrW := .two, support64 := false }

def fresh : State := State.initial small Environment.empty

/-- "AUTHED" of spec/95_test_vectors.md, Conventions. -/
def authed : State :=
  { fresh with session := { fresh.session with
      isAuthenticated := true, slaveSeq := 2#4, pendingBlock := ⟨0x800#32, 8#16⟩ } }

/-- `authed`, logging. -/
def logging : State := { authed with session := { authed.session with isLoggingEnabled := true } }

def withMemory (m : Memory) (s : State) : State := { s with env := { s.env with memory := m } }

def withAccessor (l : List AccessorAnswer) (s : State) : State := { s with env := { s.env with accessor := l } }

def withInputs (l : List Event) (s : State) : State := { s with env := { s.env with inputs := l } }

/-- The body has been received and the next event is `TICK(e)`. -/
def arrived (e : Half) (body : List Byte) (s : State) : State := (s.withBody body).withEvent (.tick e)

/-- The state after that step. -/
def ran (e : Half) (body : List Byte) (s : State) : State := got (step (arrived e body s))

/-- The body waiting in the transmitter. -/
def loaded (s : State) : List Byte := s.tx.buffer.take s.tx.endIndex

def rxIn (r : RxState) (body : List Byte) (s : State) : State :=
  { s with rx := { s.rx with state := r, buffer := overwrite s.rx.buffer body, length := body.length } }

def txIn (r : TxState) (cursor : Nat) (body : List Byte) (s : State) : State :=
  { s with tx := ⟨r, overwrite s.tx.buffer body, cursor, body.length⟩ }

/-! ### WellFormed refuses each kind of ill-formed term -/

theorem test_refuses_period_length : (Instr.logperiod 0 (.badLength [1, 2])).wellFormed small = false := by
  decide
theorem test_refuses_write_size_unsupported :
    (Instr.write 0 (.fields ⟨.w8, 8, 0, [1, 2, 3, 4, 5, 6, 7, 8]⟩)).wellFormed narrow = false := by decide
theorem test_refuses_write_data_length :
    (Instr.write 0 (.fields ⟨.w2, 2, 0, [1]⟩)).wellFormed small = false := by decide
theorem test_refuses_write_address :
    (Instr.write 0 (.fields ⟨.w1, 1, 0x10000, [1]⟩)).wellFormed narrow = false := by decide
theorem test_refuses_write_bad_length_of_a_row :
    (Instr.write 0 (.badLength [1, 0, 0, 0, 0, 7])).wellFormed small = false := by decide
theorem test_refuses_logcfg_address :
    (Instr.logcfg 0 (.fields ⟨0, [⟨1, 0x10000⟩]⟩)).wellFormed narrow = false := by decide
theorem test_refuses_logcfg_bad_length_of_a_row :
    (Instr.logcfg 0 (.badLength [0x30])).wellFormed small = false := by decide
theorem test_refuses_auth_length : (Instr.auth 0 (.badLength [1, 2, 3, 4])).wellFormed small = false := by
  decide
theorem test_refuses_dump_address :
    (Instr.dump 0 (.fields ⟨0x10000, 1⟩)).wellFormed narrow = false := by decide
theorem test_refuses_dump_bad_length_of_the_row :
    (Instr.dump 0 (.badLength [0, 0, 0, 0, 1, 0])).wellFormed small = false := by decide
/-- 30_encoding.md R93: a body of `RX_CAP − 1` bytes fits, one of `RX_CAP` does not. -/
theorem test_refuses_long_body :
    (Instr.logstop 0 (List.replicate 13 0)).wellFormed small = true ∧
    (Instr.logstop 0 (List.replicate 14 0)).wellFormed small = false := by decide

/-! ### Words of each row, written out from 30_encoding.md (the CRC by hand from 40_crc8.md R131; most
stand in spec/95_test_vectors.md) -/

theorem test_decode_logstart : decode referenceConfig .body [0x11, 0x13] = .ok (.logstart 1 []) := rfl
theorem test_decode_logstop :
    decode referenceConfig .body [0x52, 0xAA, 0xBB, 0x25] = .ok (.logstop 5 [0xAA, 0xBB]) := rfl
theorem test_decode_logperiod :
    decode referenceConfig .body [0x03, 0xE8, 0x03, 0x7C] = .ok (.logperiod 0 (.fields 1000)) := rfl
theorem test_decode_logperiod_length :
    decode referenceConfig .body [0x23, 0x0A, 0x12] = .ok (.logperiod 2 (.badLength [0x0A])) := rfl
theorem test_decode_write :
    decode referenceConfig .body [0x24, 4, 0x10, 0, 0, 0x20, 0x44, 0x33, 0x22, 0x11, 0xBB] =
      .ok (.write 2 (.fields ⟨.w4, 4, 0x20000010, [0x44, 0x33, 0x22, 0x11]⟩)) := rfl
theorem test_decode_write_length :
    decode referenceConfig .body [0x94, 4, 0x10, 0, 0, 0xE5] = .ok (.write 9 (.badLength [4, 0x10, 0, 0])) := rfl
theorem test_decode_logcfg :
    decode referenceConfig .body [0x15, 0x10, 1, 0, 0x10, 0, 0, 0x87] =
      .ok (.logcfg 1 (.fields ⟨0x10, [⟨1, 0x1000⟩]⟩)) := rfl
theorem test_decode_auth :
    decode referenceConfig .body [0x36, 0xEF, 0xBE, 0xAD, 0xDE, 0xBD] = .ok (.auth 3 (.fields 0xDEADBEEF)) := rfl
theorem test_decode_dump :
    decode referenceConfig .body [0x17, 0x10, 0, 0, 0x20, 4, 0, 0xB6] =
      .ok (.dump 1 (.fields ⟨0x20000010, 4⟩)) := rfl
theorem test_decode_bypass :
    decode referenceConfig .body [0x28, 0xAA, 0xBB, 0x2A] = .ok (.bypass 2 [0xAA, 0xBB]) := rfl
theorem test_decode_reserved0 : decode referenceConfig .body [0x80, 0xDB] = .ok (.reserved0 8 []) := rfl
theorem test_decode_reserved9 : decode referenceConfig .body [0x59, 0xF7] = .ok (.reserved9 5 []) := rfl
theorem test_decode_reservedA : decode referenceConfig .body [0x6A, 0xC2] = .ok (.reservedA 6 []) := rfl
theorem test_decode_reservedB : decode referenceConfig .body [0x7B, 0xD1] = .ok (.reservedB 7 []) := rfl
theorem test_decode_reservedC : decode referenceConfig .body [0x8C, 0x73] = .ok (.reservedC 8 []) := rfl
theorem test_decode_reservedD : decode referenceConfig .body [0x9D, 0x60] = .ok (.reservedD 9 []) := rfl
theorem test_decode_reservedE : decode referenceConfig .body [0xAE, 0x55] = .ok (.reservedE 10 []) := rfl
theorem test_decode_reservedF : decode referenceConfig .body [0x7F, 0x3A] = .ok (.reservedF 7 []) := rfl
theorem test_decode_wire_bytes :
    decode referenceConfig .wire [0xC0] = .ok .fend ∧ decode referenceConfig .wire [0xDB] = .ok .fesc ∧
    decode referenceConfig .wire [0xDC] = .ok .tfend ∧ decode referenceConfig .wire [0xDD] = .ok .tfesc ∧
    decode referenceConfig .wire [0xC1] = .error .ordinaryByte := ⟨rfl, rfl, rfl, rfl, rfl⟩
/-- 95_test_vectors.md V-D2, V-D3. -/
theorem test_decode_rejects :
    decode referenceConfig .body [0x00] = .error .shortBody ∧
    decode referenceConfig .body [0x11, 0x14] = .error .crcMismatch := ⟨rfl, rfl⟩
/-- Words of opcode-table rows of one byte. -/
theorem test_table_words :
    decodeTableWord 8 0x01 = some (.logstart 0 []) ∧
    decodeTableWord 8 0x06 = some (.auth 0 (.fields 0)) ∧
    decodeTableWord 8 0x0F = some (.reservedF 0 []) ∧ decodeTableWord 8 0xC0 = some .fend ∧
    decodeTableWord 8 0xDD = some .tfesc := ⟨rfl, rfl, rfl, rfl, rfl⟩
/-- The next step runs the placed word: AUTH with a zero key is refused, in the frame that is consumed. -/
theorem test_fetch_word :
    (got (step (State.reset.withFetchWord 8 0x06))).trace.absorbed = [.auth] ∧
    (got (step (State.reset.withFetchWord 8 0xC0))).rx.state = .framing := by decide +kernel

/-! ### CRC (95_test_vectors.md V-CRC) -/

theorem test_crc_vectors :
    crc8 referenceCrcTable [] = 0x00 ∧ crc8 referenceCrcTable [0x80] = 0xDB ∧
    crc8 referenceCrcTable [0xAF] = 0xC0 ∧
    crc8 referenceCrcTable [0x31, 0x32, 0x33, 0x34, 0x35, 0x36, 0x37, 0x38, 0x39] = 0x14 ∧
    crc8 referenceCrcTable [0x25, 0x78, 0x56, 0x34, 0x12, 0xC0, 0xDB, 0xFA] = 0x00 := ⟨rfl, rfl, rfl, rfl, rfl⟩

/-! ### One step of each instruction -/

/-- V-L1. -/
theorem test_logstart :
    (ran 1 [0x11, 0x13] authed).session =
      { authed.session with
        isLoggingEnabled := true, masterSeq := 1, slaveSeq := 3, logTimeoutCounter := 1
        logIntervalCounter := 1, pendingBlock := ⟨0, 0⟩ } ∧
    loaded (ran 1 [0x11, 0x13] authed) = [0x13, 0xAC] := by decide +kernel
/-- V-L2. -/
theorem test_logstart_while_logging :
    (ran 1 [0x21, 0x0C] logging).session.masterSeq = 2 ∧
    (ran 1 [0x21, 0x0C] logging).session.slaveSeq = 2 ∧
    (ran 1 [0x21, 0x0C] logging).tx.state = .idle := by decide +kernel
/-- V-D12, with the sequence of "AUTHED". -/
theorem test_logstop :
    (ran 1 [0xA2, 0xFD] logging).session.isLoggingEnabled = false ∧
    loaded (ran 1 [0xA2, 0xFD] logging) = [0xA3, 0x68] := by decide +kernel
/-- V-L11. -/
theorem test_logperiod :
    (ran 1 [0x53, 0x64, 0x00, 0x6C] logging).session.isLoggingEnabled = false ∧
    (ran 1 [0x53, 0x64, 0x00, 0x6C] logging).session.logIntervalPeriod = 100 := by decide +kernel
/-- V-L7. -/
theorem test_logperiod_zero :
    (ran 1 [0x13, 0x00, 0x00, 0x19] authed).session.logIntervalPeriod = 500 ∧
    (ran 1 [0x13, 0x00, 0x00, 0x19] authed).trace.absorbed = [.validation] := by decide +kernel
/-- V-W4a. -/
theorem test_write :
    (ran 1 [0x24, 4, 0x10, 0, 0, 0x20, 0x44, 0x33, 0x22, 0x11, 0xBB] authed).env.memory =
      [(0x20000010, 0x44), (0x20000011, 0x33), (0x20000012, 0x22), (0x20000013, 0x11)] ∧
    (ran 1 [0x24, 4, 0x10, 0, 0, 0x20, 0x44, 0x33, 0x22, 0x11, 0xBB] authed).trace.ports =
      [.memWrite 0x20000010 .w4 [0x44, 0x33, 0x22, 0x11] true] := by decide +kernel
/-- V-W4e: a size byte that does not match the length; no access. -/
theorem test_write_size_mismatch :
    (ran 1 [0x64, 2, 0x10, 0, 0, 0x20, 0x44, 0x33, 0x22, 0x11, 0x80] authed).trace =
      ⟨[], [.validation]⟩ := by decide +kernel
/-- V-C1. -/
theorem test_logcfg :
    (ran 1 [0x05, 0x30, 4, 0, 0, 0, 0x20, 0x66] authed).targets.committedCount = 1 ∧
    (ran 1 [0x05, 0x30, 4, 0, 0, 0, 0x20, 0x66] authed).targets.stagedCount = 1 ∧
    (ran 1 [0x05, 0x30, 4, 0, 0, 0, 0x20, 0x66] authed).targets.entries.head? =
      some ⟨0x20000000, .w4⟩ := by decide +kernel
/-- V-C13: the first entry was stored, both counts are 0. -/
theorem test_logcfg_bad_size :
    (ran 1 [0x15, 0x10, 2, 0, 0x10, 0, 0, 5, 0, 0x20, 0, 0, 0x40] authed).targets =
      ⟨[⟨0x1000, .w2⟩, ⟨0, .w1⟩, ⟨0, .w1⟩], 0, 0⟩ := by decide +kernel
/-- V-D6, with the version block of 95_test_vectors.md. -/
theorem test_auth :
    loaded (ran 1 [0x36, 0xEF, 0xBE, 0xAD, 0xDE, 0xBD]
        (withMemory [(0x800, 0x52), (0x801, 0x4D), (0x802, 0x31), (0x803, 0x2E), (0x804, 0x30),
          (0x805, 0x2E), (0x806, 0x30)] fresh)) =
      [0x32, 0x52, 0x4D, 0x31, 0x2E, 0x30, 0x2E, 0x30, 0x00, 0x42] := by decide +kernel
/-- V-A4: a wrong key while logging logs out and leaves logging on. -/
theorem test_auth_wrong_key :
    (ran 1 [0x66, 0, 0, 0, 0, 0x75] logging).session.isAuthenticated = false ∧
    (ran 1 [0x66, 0, 0, 0, 0, 0x75] logging).session.isLoggingEnabled = true := by decide +kernel
/-- V-M7: the reply wraps at the top of the address space. -/
theorem test_dump_wraps :
    (ran 1 [0x77, 0xFE, 0xFF, 0xFF, 0xFF, 4, 0, 0x2B]
        (withMemory [(0x1, 0x01), (0xFFFFFFFE, 0xEE), (0xFFFFFFFF, 0xFF)] authed)).trace.ports =
      [.memRead 0xFFFFFFFE .w1 (some [0xEE]), .memRead 0xFFFFFFFF .w1 (some [0xFF]),
        .memRead 0 .w1 (some [0x00]), .memRead 1 .w1 (some [0x01])] := by decide +kernel
/-- V-M9: a length above `MAX_PAYLOAD` is refused. -/
theorem test_dump_too_long :
    (ran 1 [0x97, 0, 0, 0, 0x20, 0, 1, 0x1D] authed).trace.absorbed = [.validation] := by decide +kernel
/-- V-B2. -/
theorem test_bypass :
    loaded (ran 1 [0x28, 0xAA, 0xBB, 0x2A]
        { authed with
          cfg := { small with bypass := true }
          env := { authed.env with
            memory := [(0x20000100, 0xBE), (0x20000101, 0xEF)]
            bypass := [⟨true, 0x20000100, 2, []⟩] } }) = [0x23, 0xBE, 0xEF, 0x45] := by decide +kernel
/-- V-B1: no capability; logging goes off. -/
theorem test_bypass_none :
    (ran 1 [0x18, 0xAA, 0xBB, 0xC1] logging).session.isLoggingEnabled = false ∧
    (ran 1 [0x18, 0xAA, 0xBB, 0xC1] logging).session.pendingBlock = ⟨0, 0⟩ := by decide +kernel
/-- V-D7 to V-D10 and the four like them: the session stays, `pendingBlock` among it. -/
theorem test_reserved :
    ∀ body ∈ [[0x40, 0xA7], [0x59, 0xF7], [0x6A, 0xC2], [0x7B, 0xD1], [0x8C, 0x73], [0x9D, 0x60],
        [0xAE, 0x55], [0x7F, 0x3A]],
      (ran 1 body authed).session = authed.session ∧ (ran 1 body authed).trace = ⟨[], [.validation]⟩ := by
  decide +kernel
/-- V-FAULT1: the third read faults; nothing is sent, the flag is cleared. -/
theorem test_reply_fault :
    (got (exec .reply (withAccessor [.memory, .memory, .fault]
        { authed with session := { authed.session with isReplyPending := true } }))).session =
      { authed.session with isReplyPending := false } := by decide +kernel
/-- V-S1: a due sample of one target of 4 bytes. -/
theorem test_telemetry :
    loaded (got (exec .telemetry
      (withMemory [(0x20000000, 0x78), (0x20000001, 0x56), (0x20000002, 0x34), (0x20000003, 0x12)]
        { authed with
          session := { authed.session with masterSeq := 1, slaveSeq := 4 }
          targets := ⟨[⟨0x20000000, .w4⟩, ⟨0, .w1⟩, ⟨0, .w1⟩], 1, 1⟩ }))) =
      [0x15, 0x78, 0x56, 0x34, 0x12, 0xE0] := by decide +kernel
/-- V-RX8, V-RX9: an empty frame does not complete, a frame of one byte does. -/
theorem test_fend :
    (got (exec .fend (rxIn .framing [] fresh))).rx.state = .framing ∧
    (got (exec .fend (rxIn .framing [0x00] fresh))).rx.state = .complete := by decide +kernel
/-- V-RX6: `DB DB` is malformed. -/
theorem test_fesc :
    (got (exec .fesc (rxIn .framing [0x11] fresh))).rx.state = .escaping ∧
    (got (exec .fesc (rxIn .escaping [0x11] fresh))).trace.absorbed = [.framing] := by decide +kernel
/-- V-RX3: after `DB` the code stands for `C0`, bare it is itself. -/
theorem test_tfend :
    (got (exec .tfend (rxIn .escaping [0x25] fresh))).rxBody = [0x25, 0xC0] ∧
    (got (exec .tfend (rxIn .framing [0x25] fresh))).rxBody = [0x25, 0xDC] := by decide +kernel
/-- V-RX3. -/
theorem test_tfesc :
    (got (exec .tfesc (rxIn .escaping [0x25] fresh))).rxBody = [0x25, 0xDB] ∧
    (got (exec .tfesc (rxIn .framing [0x25] fresh))).rxBody = [0x25, 0xDD] := by decide +kernel
/-- V-TX2. -/
theorem test_pulls :
    (pulls 6 ⟨.ready, [0xAF, 0xC0, 0], 0, 2⟩).1 =
      [some 0xC0, some 0xAF, some 0xDB, some 0xDC, some 0xC0, none] ∧
    (pulls 6 ⟨.ready, [0xAF, 0xC0, 0], 0, 2⟩).2 = ⟨.idle, [0xAF, 0xDC, 0], 2, 2⟩ := by decide
/-- 43_dispatch_and_reply.md R194. -/
theorem test_next_seq : nextSeq 15 = 1 ∧ nextSeq 1 = 2 := by decide

/-! ### Witnesses: states and operands that meet the hypotheses of the obligations -/

def bypassing : Config := { small with bypass := true }

def tx12 : Transmit := ⟨.ready, [0xAF, 0xC0, 0xDB], 0, 3⟩

theorem witness_ResetEventRestoresEveryField :
    configOk logging.cfg = true ∧ (logging.withEvent .reset).env.inputs = .reset :: [] := by decide +kernel

/-- Both neighbours of the delimiter. -/
theorem witness_NothingHappensAfterResetUntilADelimiter : (0xBF#8) ≠ 0xC0#8 ∧ (0xC1#8) ≠ 0xC0#8 := by decide

/-- Each state at the longest length at which the guard does not act, `Framing` empty too. -/
theorem witness_ReceiverFollowsItsTransitionTable :
    (∀ r ∈ [RxState.idle, .framing, .escaping, .complete],
      (rxIn r (List.replicate 15 1) fresh).rx.state = r ∧
      ¬(((rxIn r (List.replicate 15 1) fresh).rx.state = .framing ∨
          (rxIn r (List.replicate 15 1) fresh).rx.state = .escaping) ∧
        (rxIn r (List.replicate 15 1) fresh).cfg.rxCap ≤ (rxIn r (List.replicate 15 1) fresh).rx.length)) ∧
    0 < (rxIn .framing [1] fresh).rx.length ∧ (rxIn .framing [] fresh).rx.length = 0 ∧
    ¬(((rxIn .framing [] fresh).rx.state = .framing ∨ (rxIn .framing [] fresh).rx.state = .escaping) ∧
      (rxIn .framing [] fresh).cfg.rxCap ≤ (rxIn .framing [] fresh).rx.length) ∧
    (0xDC#8 ≠ 0xC0#8 ∧ 0xDC#8 ≠ 0xDB#8) ∧ (0xDE#8 ≠ 0xDC#8 ∧ 0xDE#8 ≠ 0xDD#8) := by decide +kernel

theorem witness_SpecialBytesFollowTheirRows :
    ∀ r ∈ [RxState.idle, .framing, .escaping, .complete],
      (rxIn r (List.replicate 15 1) fresh).rx.state = r ∧
      (rxIn r (List.replicate 15 1) fresh).rx.length < (rxIn r (List.replicate 15 1) fresh).cfg.rxCap := by
  decide +kernel

/-- Exactly a full buffer. -/
theorem witness_OverflowAbandonsTheFrame :
    ∀ r ∈ [RxState.framing, .escaping],
      (rxIn r (List.replicate 16 1) fresh).rx.state = r ∧
      (rxIn r (List.replicate 16 1) fresh).cfg.rxCap ≤ (rxIn r (List.replicate 16 1) fresh).rx.length := by
  decide +kernel

/-- Exactly `RX_TIMEOUT`, and one more. -/
theorem witness_ReceiveTimeoutIsStrict :
    (rxIn .framing [1] fresh).rx.state = .framing ∧ (rxIn .escaping [1] fresh).rx.state = .escaping ∧
    (rxIn .framing [1] fresh).rx.timeoutCounter + (100#16).toNat ≤ (rxIn .framing [1] fresh).cfg.rxTimeout ∧
    (rxIn .framing [1] fresh).cfg.rxTimeout < (rxIn .framing [1] fresh).rx.timeoutCounter + (101#16).toNat ∧
    (rxIn .complete [1] fresh).rx.state = .complete ∧ fresh.rx.state = .idle := by decide +kernel

theorem witness_TransmitterFollowsItsTransitionTable :
    (txIn .ready 0 [0xAF, 0xC0, 0xDB] fresh).tx.state = .ready ∧
    (∀ k ∈ [0, 1, 2],
      (txIn .busy k [0xAF, 0xC0, 0xDB] fresh).tx.state = .busy ∧
      (txIn .busy k [0xAF, 0xC0, 0xDB] fresh).tx.cursor < (txIn .busy k [0xAF, 0xC0, 0xDB] fresh).tx.endIndex) ∧
    (txIn .busy 0 [0xAF, 0xC0, 0xDB] fresh).tx.buffer[0]? = some 0xAF ∧
    (0xAF#8 ≠ 0xC0#8 ∧ 0xAF#8 ≠ 0xDB#8) ∧
    (txIn .busy 1 [0xAF, 0xC0, 0xDB] fresh).tx.buffer[1]? = some 0xC0 ∧
    (txIn .busy 2 [0xAF, 0xC0, 0xDB] fresh).tx.buffer[2]? = some 0xDB ∧
    (txIn .busy 3 [0xAF, 0xC0, 0xDB] fresh).tx.endIndex ≤ (txIn .busy 3 [0xAF, 0xC0, 0xDB] fresh).tx.cursor ∧
    (txIn .closing 3 [0xAF, 0xC0, 0xDB] fresh).tx.state = .closing ∧ fresh.tx.state = .idle := by
  decide +kernel

theorem witness_DrainYieldsTheWireForm : tx12.state = .ready ∧ tx12.endIndex ≤ tx12.buffer.length := by decide

theorem witness_CrcClosesABodyAndOnlyItself : configOk small = true := by decide +kernel

/-- Each row of each `ADDR_W`, and the 8-byte row that `SUPPORT_64` switches off. -/
theorem witness_LengthTablesFollowThePayloadLayouts :
    writeSize small 6 = some .w1 ∧ writeSize small 13 = some .w8 ∧ writeSize narrow 4 = some .w1 ∧
    writeSize narrow 7 = some .w4 ∧ writeSize narrow 11 = none ∧ cfgCount small 1 = some 0 ∧
    cfgCount small 11 = some 2 ∧ cfgCount narrow 0 = none := by decide

/-- The longest body of `small`, a payload of a refused length, and a wire byte. -/
theorem witness_DecodeOfEncodeIsTheInstruction :
    configOk small = true ∧
    (Instr.logcfg 15 (.fields ⟨0xFF, [⟨3, 0xFFFFFFFF⟩, ⟨0, 0⟩]⟩)).wellFormed small = true ∧
    (Instr.logcfg 15 (.fields ⟨0xFF, [⟨3, 0xFFFFFFFF⟩, ⟨0, 0⟩]⟩)).layer = some .body ∧
    (Instr.write 0 (.badLength (List.replicate 12 7))).wellFormed small = true ∧
    (Instr.logstop 3 (List.replicate 13 7)).wellFormed small = true ∧
    Instr.fesc.wellFormed small = true ∧ Instr.fesc.layer = some .wire := by decide +kernel

theorem witness_EncodeOfDecodeIsTheBytes :
    small.crcTable = referenceCrcTable ∧ decode small .body [0x11, 0x13] = .ok (.logstart 1 []) ∧
    decode small .wire [0xDB] = .ok .fesc := ⟨rfl, rfl, rfl⟩

theorem witness_StepRunsTheDecodedInstruction :
    configOk small = true ∧
    (arrived 1 [0x11, 0x13] authed).env.inputs = .tick 1 :: [] ∧
    (arrived 1 [0x11, 0x13] authed).rx.state = .complete ∧
    decode small .body (arrived 1 [0x11, 0x13] authed).rxBody = .ok (.logstart 1 []) ∧
    (authed.withEvent (.rxPush 0xDB)).env.inputs = .rxPush 0xDB :: [] ∧
    decode authed.cfg .wire [0xDB] = .ok .fesc ∧
    logging.session.isLoggingEnabled = true ∧
    logging.session.logIntervalPeriod.toNat ≤ logging.session.logIntervalCounter + (500#16).toNat ∧
    authed.env.inputs = [] := ⟨by decide +kernel, rfl, rfl, rfl, rfl, rfl, rfl, by decide, rfl⟩

theorem witness_ShortAndCorruptBodiesAreDropped :
    (rxIn .complete [0x00] fresh).rx.state = .complete ∧ (rxIn .complete [0x00] fresh).rxBody.length < 2 ∧
    crc8 small.crcTable (rxIn .complete [0x11, 0x14] fresh).rxBody ≠ 0#8 := by decide +kernel

theorem witness_GateRefusesAllButAuth :
    (Instr.logstart 1 []).opcode = some 0x1#4 ∧ (0x1#4) ≠ 0x6#4 ∧ fresh.session.isAuthenticated = false := by
  decide +kernel

/-- One request of each outcome. -/
theorem witness_OnlyAcceptedRequestsAdoptTheSequence :
    exec (.logstop 3 []) authed = .next (got (exec (.logstop 3 []) authed)) ∧
    (got (exec (.logstop 3 []) authed)).session.masterSeq = 3 ∧
    exec (.reserved0 3 []) authed = .next (got (exec (.reserved0 3 []) authed)) ∧
    (got (exec (.reserved0 3 []) authed)).trace.absorbed = [.validation] :=
  ⟨rfl, by decide +kernel, rfl, by decide +kernel⟩

/-- A LOGCFG Error of an authenticated peer, a wrong key, a BYPASS without capability, another Error. -/
theorem witness_ErrorsChangeNothingButTheFourExceptions :
    ∀ i ∈ [Instr.logcfg 0 (.badLength []), .auth 0 (.fields 0), .bypass 0 [], .logstart 0 [1]],
      isNext (exec i authed) = true ∧ i.opcode.isSome = true ∧ authed.session.isAuthenticated = true ∧
      (got (exec i authed)).trace.absorbed ≠ authed.trace.absorbed := by decide +kernel

theorem witness_LogstartStartsLoggingOnce :
    authed.session.isAuthenticated = true ∧ ([0] : List Byte) ≠ [] ∧
    logging.session.isAuthenticated = true ∧ logging.session.isLoggingEnabled = true ∧
    authed.session.isLoggingEnabled = false := by decide +kernel

theorem witness_LogstopStopsLoggingUnconditionally : logging.session.isAuthenticated = true := by
  decide +kernel

/-- The least period; both refused forms. -/
theorem witness_LogperiodSetsThePeriodAndStopsLogging :
    authed.session.isAuthenticated = true ∧ (1#16) ≠ 0#16 ∧
    ((Operands.fields 0#16 : Operands Half) = .fields 0#16 ∨ ∃ p, (Operands.fields 0#16 : Operands Half) = .badLength p) :=
  ⟨by decide +kernel, by decide, .inl rfl⟩

theorem witness_WriteMakesOneAccess :
    authed.session.isAuthenticated = true ∧ (8#8).toNat = Width.w8.bytes ∧
    noFault 1 (withAccessor [.live 0] authed) ∧ noFault 1 authed ∧
    firstFaultAt 0 (withAccessor [.fault] authed) ∧ (4#8).toNat ≠ Width.w8.bytes := by
  refine ⟨by decide +kernel, by decide, ?_, ?_, ⟨?_, rfl⟩, by decide⟩ <;> unfold noFault <;> decide +kernel

/-- A store of 8 bytes at the top of the address space (the wrap is the model's choice,
notes/assumptions/5.md). -/
theorem witness_WrittenBytesReadBackInWireOrder :
    authed.session.isAuthenticated = true ∧
    (⟨.w8, 8, 0xFFFFFFFC, [1, 2, 3, 4, 5, 6, 7, 8]⟩ : WriteFields).sizeByte.toNat = Width.w8.bytes ∧
    (⟨.w8, 8, 0xFFFFFFFC, [1, 2, 3, 4, 5, 6, 7, 8]⟩ : WriteFields).data.length = Width.w8.bytes ∧
    authed.env.memory.wf = true ∧ noFault 1 authed ∧
    isNext (exec (.write 1 (.fields ⟨.w8, 8, 0xFFFFFFFC, [1, 2, 3, 4, 5, 6, 7, 8]⟩)) authed) = true := by
  refine ⟨by decide +kernel, by decide, by decide, by decide +kernel, ?_, by decide +kernel⟩
  unfold noFault
  decide +kernel

/-- As many entries as the table holds, and exactly `MAX_PAYLOAD` bytes. -/
theorem witness_LogcfgStagesAndCommits :
    authed.session.isAuthenticated = true ∧ authed.targets.entries.length = authed.cfg.nTargets ∧
    (([⟨8, 0x1000⟩, ⟨1, 0x2000⟩, ⟨1, 0x3000⟩] : List CfgEntry).map fun e => widthOfByte authed.cfg e.sizeByte) =
      [Width.w8, .w1, .w1].map some ∧
    0 + 3 ≤ authed.cfg.nTargets ∧
    sizeSum [⟨0x1000, .w8⟩, ⟨0x2000, .w1⟩, ⟨0x3000, .w1⟩] 3 ≤ authed.cfg.maxPayload := by decide +kernel

/-- One entry too many; a size byte outside `SIZES`; one byte above `MAX_PAYLOAD`. -/
theorem witness_LogcfgErrorsDiscardTheConfiguration :
    authed.session.isAuthenticated = true ∧ authed.targets.entries.length = authed.cfg.nTargets ∧
    authed.cfg.nTargets < 0 + 4 ∧ widthOfByte authed.cfg 3 = none ∧
    (([⟨8, 0x1000⟩, ⟨2, 0x2000⟩, ⟨1, 0x3000⟩] : List CfgEntry).map fun e => widthOfByte authed.cfg e.sizeByte) =
      [Width.w8, .w2, .w1].map some ∧
    authed.cfg.maxPayload < sizeSum authed.targets.entries 0 + ([Width.w8, .w2, .w1].map Width.bytes).sum := by
  decide +kernel

theorem witness_AuthSetsTheLevelByTheKey : (0xDEADBEEE#32) ≠ fresh.session.passkey := by decide +kernel

/-- Exactly `MAX_PAYLOAD`, and one more. -/
theorem witness_DumpNamesTheRegion :
    authed.session.isAuthenticated = true ∧ (10#16).toNat ≤ authed.cfg.maxPayload ∧
    authed.cfg.maxPayload < (11#16).toNat := by decide +kernel

theorem witness_BypassMirrorsTheCapability :
    authed.session.isAuthenticated = true ∧ authed.cfg.bypass = false ∧
    (∀ ok ∈ [true, false],
      bypassAnswer [1] { authed with
          cfg := bypassing, env := { authed.env with bypass := [⟨ok, 0x10, 11, []⟩] } } = ⟨ok, 0x10, 11, []⟩) ∧
    bypassing.bypass = true := by decide +kernel

theorem witness_ReservedOpcodesChangeNothing :
    Instr.reservedF 1 [] ∈ [Instr.reserved0 1 [], .reserved9 1 [], .reservedA 1 [], .reservedB 1 [],
      .reservedC 1 [], .reservedD 1 [], .reservedE 1 [], .reservedF 1 []] := by decide

/-- No `Fault` in two reads; a `Fault` at the first and at the last of two. -/
theorem witness_ReadsAreMadeOnceInOrder :
    noFault 2 (withAccessor [.live 7] authed) ∧ firstFaultAt 0 (withAccessor [.fault] authed) ∧
    firstFaultAt 1 (withAccessor [.memory, .fault] authed) := by
  refine ⟨?_, ⟨?_, rfl⟩, ⟨?_, rfl⟩⟩ <;> unfold noFault <;> decide +kernel

/-- A session with a reply of `n` bytes pending. -/
def replying (n : Half) : State :=
  { authed with session := { authed.session with isReplyPending := true, pendingBlock := ⟨0xFFFFFFFF, n⟩ } }

/-- A pending reply of a block, and of an empty one; then both ways in which T3 does nothing. -/
theorem witness_ReplyLoadsThePendingBlock :
    ((replying 10).session.isReplyPending = true ∧ (replying 10).tx.state = .idle ∧ noFault 10 (replying 10)) ∧
    ((replying 0).session.isReplyPending = true ∧ (replying 0).tx.state = .idle ∧ noFault 0 (replying 0)) ∧
    authed.session.isReplyPending = false ∧ (txIn .closing 2 [1, 2] authed).tx.state ≠ .idle := by
  unfold noFault
  decide +kernel

def sampling : State := { logging with targets := ⟨[⟨0x1000, .w8⟩, ⟨0x2000, .w2⟩, ⟨0, .w8⟩], 2, 2⟩ }

/-- Two committed targets of exactly `MAX_PAYLOAD` bytes; then each way a sample is not allowed. -/
theorem witness_TelemetryLoadsTheCommittedTargets :
    sampling.session.isReplyPending = false ∧ sampling.tx.state = .idle ∧
    0 < sampling.targets.committedCount ∧
    sizeSum sampling.targets.entries sampling.targets.committedCount ≤ sampling.cfg.maxPayload ∧
    noFault 2 sampling ∧ logging.targets.committedCount = 0 ∧
    (txIn .ready 0 [1, 2] sampling).tx.state ≠ .idle ∧
    sampling.cfg.maxPayload < sizeSum sampling.targets.entries 3 := by
  refine ⟨by decide +kernel, by decide +kernel, by decide +kernel, by decide +kernel, ?_, by decide +kernel,
    by decide +kernel, by decide +kernel⟩
  unfold noFault
  decide +kernel

/-- The last byte of a reply, and the last target of a sample. -/
theorem witness_ReadFaultAbandonsTheFrame :
    firstFaultAt 7 (withAccessor (List.replicate 7 .memory ++ [.fault]) authed) ∧
    authed.tx.state = .idle ∧ 7 < authed.session.pendingBlock.length.toNat ∧
    ({ authed with session := { authed.session with isReplyPending := true } } : State).session.isReplyPending =
      true ∧
    firstFaultAt 1 (withAccessor [.memory, .fault] sampling) ∧ sampling.session.isReplyPending = false ∧
    1 < (sampling.targets.entries.take sampling.targets.committedCount).length ∧
    sizeSum sampling.targets.entries sampling.targets.committedCount ≤ sampling.cfg.maxPayload := by
  refine ⟨⟨?_, rfl⟩, by decide +kernel, by decide +kernel, by decide +kernel, ⟨?_, rfl⟩, by decide +kernel,
    by decide +kernel, by decide +kernel⟩ <;> unfold noFault <;> decide +kernel

theorem witness_WatchdogStopsLoggingAtTheLimit :
    logging.session.isLoggingEnabled = true ∧ authed.session.isLoggingEnabled = false := by decide +kernel

/-- One below the period, and exactly the period. -/
theorem witness_SamplerCountsToThePeriod :
    logging.session.isLoggingEnabled = true ∧
    logging.session.logIntervalCounter + (499#16).toNat < logging.session.logIntervalPeriod.toNat ∧
    logging.session.logIntervalPeriod.toNat ≤ logging.session.logIntervalCounter + (500#16).toNat ∧
    authed.session.isLoggingEnabled = false := by decide +kernel

/-- Two ticks that reach exactly the limit. -/
theorem witness_TicksWithoutARequestEndLogging :
    configOk logging.cfg = true ∧
    (withInputs ([1999#16, 1#16].map .tick) logging).env.inputs = [1999#16, 1#16].map .tick ∧
    logging.rx.state ≠ .complete ∧
    logging.session.logTimeoutCounter < logging.session.logWatchdogLimit.toNat ∧
    logging.session.logWatchdogLimit.toNat ≤
      logging.session.logTimeoutCounter + ([1999#16, 1#16].map BitVec.toNat).sum := by decide +kernel

theorem witness_SessionCommandsLeaveTheRest :
    ∀ i ∈ [Instr.logstart 1 [], .logstop 1 [], .logperiod 1 (.fields 1), .auth 1 (.fields 0xDEADBEEF),
        .dump 1 (.fields ⟨0, 1⟩), .reservedE 1 []],
      isNext (exec i authed) = true ∧ i.opcode.isSome = true ∧ i.opcode ≠ some 0x4#4 ∧
      i.opcode ≠ some 0x5#4 ∧ i.opcode ≠ some 0x8#4 := by decide +kernel

theorem witness_LogcfgLeavesTheRest :
    isNext (exec (.logcfg 1 (.fields ⟨0x30, [⟨4, 0x1000⟩]⟩)) authed) = true ∧
    isNext (exec (.logcfg 1 (.badLength [])) authed) = true := by decide +kernel

/-- A store at address 0 leaves address 1 and the top byte. -/
theorem witness_WriteLeavesTheRest :
    authed.env.memory.wf = true ∧
    isNext (exec (.write 1 (.fields ⟨.w1, 1, 0, [7]⟩)) authed) = true ∧
    isNext (exec (.write 1 (.badLength [])) authed) = true ∧
    (∀ a ∈ [1, 0xFFFFFFFF], ∀ k < 1, a ≠ ((0 : Addr).toNat + k) % 2 ^ (8 * authed.cfg.addrW.bytes)) := by
  decide +kernel

theorem witness_BypassLeavesTheRest :
    isNext (exec (.bypass 1 [1]) { authed with
        cfg := bypassing, env := { authed.env with bypass := [⟨true, 0, 0, [(0x10, 7)]⟩] } }) = true ∧
    authed.env.memory.wf = true ∧
    (0x11 : Nat) ≠ (0x10 : Addr).toNat % 2 ^ (8 * bypassing.addrW.bytes) ∧
    isNext (exec (.bypass 1 [1]) authed) = true ∧ authed.cfg.bypass = false := by decide +kernel

theorem witness_DeviceFramesLeaveTheRest :
    isNext (exec .reply { authed with session := { authed.session with isReplyPending := true } }) = true ∧
    isNext (exec .telemetry sampling) = true := by decide +kernel

theorem witness_PushAndPullOwnTheirRecords :
    configOk small = true ∧ (fresh.withEvent (.rxPush 0xC0)).env.inputs = .rxPush 0xC0 :: [] ∧
    ((txIn .ready 0 [1, 2] fresh).withEvent .txPull).env.inputs = .txPull :: [] := by decide +kernel

theorem witness_NothingIsFatal : configOk small = true ∧ configOk narrow = true := by decide +kernel

/-- One below the least `RX_CAP`. -/
theorem witness_ParametersOutOfBoundsFault : configOk { small with rxCap := 2 } = false := by decide +kernel

/-- A state of the invariant that logs, and its step. -/
theorem witness_EveryStepKeepsTheInvariant :
    BlockOk (sampling.withEvent (.tick 500)) ∧ isNext (step (sampling.withEvent (.tick 500))) = true := by
  decide +kernel

theorem witness_OnlyLogstartTurnsLoggingOn :
    isNext (step (arrived 1 [0x11, 0x13] authed)) = true ∧
    (arrived 1 [0x11, 0x13] authed).session.isLoggingEnabled = false ∧
    (ran 1 [0x11, 0x13] authed).session.isLoggingEnabled = true := by decide +kernel

/-- A rise, a fall by `RESET`, and a fall by a wrong key. -/
theorem witness_OnlyAuthAndResetChangeTheLevel :
    isNext (step (arrived 1 [0x36, 0xEF, 0xBE, 0xAD, 0xDE, 0xBD] fresh)) = true ∧
    fresh.session.isAuthenticated = false ∧
    (ran 1 [0x36, 0xEF, 0xBE, 0xAD, 0xDE, 0xBD] fresh).session.isAuthenticated = true ∧
    isNext (step (authed.withEvent .reset)) = true ∧ authed.session.isAuthenticated = true ∧
    (got (step (authed.withEvent .reset))).session.isAuthenticated = false ∧
    isNext (step (arrived 1 [0x66, 0, 0, 0, 0, 0x75] authed)) = true ∧
    (ran 1 [0x66, 0, 0, 0, 0, 0x75] authed).session.isAuthenticated = false := by decide +kernel

/-- A step that loads a frame, and one that does not; 1 and 14 are the ends of the range. -/
theorem witness_SlaveSeqAdvancesOncePerLoadedFrame :
    isNext (step (arrived 1 [0x11, 0x13] authed)) = true ∧
    (∀ rest, (arrived 1 [0x11, 0x13] authed).env.inputs ≠ .reset :: rest) ∧
    (ran 1 [0x11, 0x13] authed).tx.state = .ready ∧ isNext (step authed) = true ∧
    (∀ rest, authed.env.inputs ≠ .reset :: rest) ∧ 1 ≤ (1#4).toNat ∧ (14#4).toNat ≤ 14 :=
  ⟨by decide +kernel, fun _ h => (by cases h), by decide +kernel, by decide +kernel,
    fun _ h => (by cases h), by decide, by decide⟩

theorem witness_NoFrameIsLoadedOverAnother :
    ((txIn .busy 1 [1, 2] sampling).withEvent (.tick 500)).env.inputs = .tick 500 :: [] ∧
    (txIn .busy 1 [1, 2] sampling).tx.state ≠ .idle ∧
    isNext (step ((txIn .busy 1 [1, 2] sampling).withEvent (.tick 500))) = true := by decide +kernel

/-- A WRITE of a peer that has not authenticated. -/
theorem witness_UnauthenticatedPeerStoresNothing :
    fresh.session.isAuthenticated = false ∧
    isNext (step (arrived 1 [0x34, 1, 0, 0, 0, 0x20, 0xA5, 0x54] fresh)) = true ∧
    decode small .body [0x34, 1, 0, 0, 0, 0x20, 0xA5, 0x54] =
      .ok (.write 3 (.fields ⟨.w1, 1, 0x20000000, [0xA5]⟩)) :=
  ⟨by decide +kernel, by decide +kernel, rfl⟩

/-- V-W4b, and V-B2 with a capability that stores a byte. -/
theorem witness_OnlyWriteAndBypassChangeMemory :
    isNext (step (arrived 1 [0x34, 1, 0, 0, 0, 0x20, 0xA5, 0x54] authed)) = true ∧
    (ran 1 [0x34, 1, 0, 0, 0, 0x20, 0xA5, 0x54] authed).env.memory ≠ authed.env.memory ∧
    isNext (step (arrived 1 [0x28, 0xAA, 0xBB, 0x2A] { authed with
      cfg := bypassing, env := { authed.env with bypass := [⟨true, 0, 0, [(0x10, 7)]⟩] } })) = true ∧
    (ran 1 [0x28, 0xAA, 0xBB, 0x2A] { authed with
      cfg := bypassing, env := { authed.env with bypass := [⟨true, 0, 0, [(0x10, 7)]⟩] } }).env.memory = [(0x10, 7)] := by
  decide +kernel

theorem witness_ParametersAndLoadedFieldsStayFixed :
    isNext (step (arrived 1 [0x11, 0x13] authed)) = true ∧ isNext (step (authed.withEvent .reset)) = true := by
  decide +kernel

theorem witness_OnlyAuthDependsOnThePasskey :
    (Instr.logstart 1 []).opcode ≠ some 0x6#4 ∧ isNext (exec (.logstart 1 []) authed) = true ∧
    Instr.reply.opcode ≠ some 0x6#4 ∧ isNext (exec .reply authed) = true := by decide +kernel

/-- A body of one byte, and one of `RX_CAP − 1` bytes, each the delimiter's value. -/
theorem witness_ReceiverRecoversTheBodyFromItsWireForm :
    configOk small = true ∧ fresh.rx.state = .idle ∧ fresh.rx.buffer.length = fresh.cfg.rxCap ∧
    (∀ n ∈ [1, 15],
      1 ≤ (List.replicate n 0xC0#8).length ∧ (List.replicate n 0xC0#8).length < fresh.cfg.rxCap ∧
      (withInputs (sendEvents (List.replicate n 0xC0#8) ++ [.txPull]) fresh).env.inputs =
        sendEvents (List.replicate n 0xC0#8) ++ [.txPull]) := by decide +kernel

theorem witness_SentInstructionIsExecuted :
    configOk small = true ∧ fresh.rx.state = .idle ∧ fresh.rx.buffer.length = fresh.cfg.rxCap ∧
    (Instr.auth 3 (.fields 0xC0DBC0DB)).wellFormed fresh.cfg = true ∧
    (Instr.auth 3 (.fields 0xC0DBC0DB)).layer = some .body ∧
    (withInputs (sendEvents (encode small (.auth 3 (.fields 0xC0DBC0DB))) ++ .tick 1 :: [.txPull]) fresh).env.inputs =
      sendEvents (encode fresh.cfg (.auth 3 (.fields 0xC0DBC0DB))) ++ .tick 1 :: [.txPull] := by
  decide +kernel

end Sys2Proof.Tests
end

section
/-! PROOFS. The transition table of `RX_PUSH` (41_frame_receiver.md R141): what `receive` selects in each
state of the receiver, then the byte's row in that state. -/

namespace Sys2Proof.Machine

/-! ### The selection of `receive` where the guard of R149 does not act -/

theorem overflowGuard_of_not_full {s : State}
    (hg : ¬((s.rx.state = .framing ∨ s.rx.state = .escaping) ∧ s.cfg.rxCap ≤ s.rx.length)) :
    overflowGuard s = s := if_neg hg

section
variable {s : State} {f g k : State → State}

theorem receive_of_complete (hr : s.rx.state = .complete) : receive f g k s = s := if_pos hr

/-- Outside a frame the guard has nothing to abandon. -/
theorem receive_of_idle (hr : s.rx.state = .idle) : receive f g k s = f s := by
  have hg : overflowGuard s = s := overflowGuard_of_not_full (by simp [hr])
  simp [receive, hg, hr]

theorem receive_of_framing (hr : s.rx.state = .framing) (hl : s.rx.length < s.cfg.rxCap) :
    receive f g k s = g s := by
  have hg : overflowGuard s = s := overflowGuard_of_not_full fun h => absurd h.2 (Nat.not_le.2 hl)
  simp [receive, hg, hr]

theorem receive_of_escaping (hr : s.rx.state = .escaping) (hl : s.rx.length < s.cfg.rxCap) :
    receive f g k s = k s := by
  have hg : overflowGuard s = s := overflowGuard_of_not_full fun h => absurd h.2 (Nat.not_le.2 hl)
  simp [receive, hg, hr]

end

/-! ### `RX_PUSH` in each state -/

section
variable {s : State} (b : Byte)

/-- The hold of 41_frame_receiver.md R151. -/
theorem rxPush_of_complete (hr : s.rx.state = .complete) : rxPush b s = .next s := by
  simp only [rxPush_eq, receiveOrdinary, receive_of_complete hr, ite_self]

/-- 41_frame_receiver.md R142. -/
theorem rxPush_of_idle (hr : s.rx.state = .idle) :
    rxPush b s = .next (if b = 0xC0#8 then s.rxOpen else s) := by
  simp only [rxPush_eq, receiveOrdinary, receive_of_idle hr, id, ite_self]

/-- 41_frame_receiver.md R144, R145, R153, R154: an escaped value without its escape is an ordinary byte. -/
theorem rxPush_of_framing (hr : s.rx.state = .framing) (hl : s.rx.length < s.cfg.rxCap) :
    rxPush b s =
      .next
        (if b = 0xC0#8 then delimiterInFrame s
        else if b = 0xDB#8 then s.setRxState .escaping
        else s.rxAppend b) := by
  simp only [rxPush_eq, receiveOrdinary, receive_of_framing hr hl]
  by_cases hend : b = 0xDC#8
  · subst hend
    rfl
  by_cases hesc : b = 0xDD#8
  · subst hesc
    rfl
  simp only [hend, hesc, if_false]

/-- 41_frame_receiver.md R146, R147, R148: the delimiter and the escape are malformed here too. -/
theorem rxPush_of_escaping (hr : s.rx.state = .escaping) (hl : s.rx.length < s.cfg.rxCap) :
    rxPush b s =
      .next
        (if b = 0xDC#8 then s.rxAppend 0xC0#8
        else if b = 0xDD#8 then s.rxAppend 0xDB#8
        else malformedEscape s) := by
  simp only [rxPush_eq, receiveOrdinary, receive_of_escaping hr hl]
  by_cases hfend : b = 0xC0#8
  · subst hfend
    rfl
  by_cases hfesc : b = 0xDB#8
  · subst hfesc
    rfl
  simp only [hfend, hfesc, if_false]
  rfl

end

/-! ### The actions inside a frame, which leave `Framing` as it is -/

section
variable {s : State}

/-- A doubled delimiter (41_frame_receiver.md R145): state and length already are what a start makes them. -/
theorem delimiterInFrame_of_empty (hr : s.rx.state = .framing) (h0 : s.rx.length = 0) :
    delimiterInFrame s = { s with rx := { s.rx with timeoutCounter := 0 } } := by
  simp only [delimiterInFrame, State.rxOpen, h0, hr, if_true]

/-- The closing delimiter (41_frame_receiver.md R154). -/
theorem delimiterInFrame_of_nonempty (hpos : 0 < s.rx.length) :
    delimiterInFrame s = s.setRxState .complete := if_neg (Nat.ne_of_gt hpos)

theorem rxAppend_of_framing (hr : s.rx.state = .framing) (v : Byte) :
    s.rxAppend v =
      { s with rx := { s.rx with
          buffer := s.rx.buffer.set s.rx.length v, length := s.rx.length + 1 } } := by
  simp only [State.rxAppend, hr]

end

/-- Settles O4: each row is the byte's branch of `RX_PUSH` in its state; as the guard does not act, the buffer
has room inside a frame. -/
theorem receiverFollowsItsTransitionTable : Obligations.ReceiverFollowsItsTransitionTable := by
  intro s hg
  have room : s.rx.state = .framing ∨ s.rx.state = .escaping → s.rx.length < s.cfg.rxCap :=
    fun hr => Nat.not_le.1 fun hl => hg ⟨hr, hl⟩
  refine ⟨fun hr => ?idleDelimiter, fun hr b hb => ?idleOther, fun hr => ?framingEscape,
    fun hr h0 => ?framingDoubled, fun hr hpos => ?framingClosing, fun hr b hb hb' => ?framingOther,
    fun hr => ?escapingEnd, fun hr => ?escapingEscape, fun hr b hb hb' => ?escapingOther,
    fun hr b => ?complete⟩
  case idleDelimiter => exact rxPush_of_idle _ hr
  case idleOther => rw [rxPush_of_idle b hr, if_neg hb]
  case framingEscape => exact rxPush_of_framing _ hr (room (.inl hr))
  case framingDoubled =>
    rw [rxPush_of_framing _ hr (room (.inl hr)), if_pos rfl, delimiterInFrame_of_empty hr h0]
  case framingClosing =>
    rw [rxPush_of_framing _ hr (room (.inl hr)), if_pos rfl, delimiterInFrame_of_nonempty hpos]
    rfl
  case framingOther =>
    rw [rxPush_of_framing b hr (room (.inl hr)), if_neg hb, if_neg hb', rxAppend_of_framing hr]
  case escapingEnd => exact rxPush_of_escaping _ hr (room (.inr hr))
  case escapingEscape => exact rxPush_of_escaping _ hr (room (.inr hr))
  case escapingOther =>
    rw [rxPush_of_escaping b hr (room (.inr hr)), if_neg hb, if_neg hb']
    rfl
  case complete => exact rxPush_of_complete b hr

end Sys2Proof.Machine
end

section
/-! PROOFS. The transition table of `TX_PULL` (42_frame_transmitter.md R161): the transmitter's own rows, then
the event that emits the row's result. -/

namespace Sys2Proof.Machine

/-! ### A pull of a body byte (42_frame_transmitter.md R163, R164) -/

section
variable {t : Transmit} {v : Byte}

theorem escapeCode_of_ordinary (hfend : v ≠ 0xC0#8) (hfesc : v ≠ 0xDB#8) : escapeCode v = none :=
  (if_neg hfend).trans (if_neg hfesc)

theorem pullBodyByte_of_escaped {code : Byte} (hv : t.buffer[t.cursor]? = some v)
    (hcode : escapeCode v = some code) :
    pullBodyByte t = (some 0xDB#8, { t with buffer := t.buffer.set t.cursor code }) := by
  simp only [pullBodyByte, List.getD_eq_getElem?_getD, hv, Option.getD_some, hcode]
  rfl

theorem pullBodyByte_of_plain (hv : t.buffer[t.cursor]? = some v) (hcode : escapeCode v = none) :
    pullBodyByte t = (some v, { t with cursor := t.cursor + 1 }) := by
  simp only [pullBodyByte, List.getD_eq_getElem?_getD, hv, Option.getD_some, hcode]

end

/-! ### A pull in each state of the transmitter -/

section
variable {t : Transmit}

/-- The opening delimiter (42_frame_transmitter.md R162). -/
theorem pull_of_ready (ht : t.state = .ready) :
    pull t = (some 0xC0#8, { t with state := .busy, cursor := 0 }) := by
  simp only [pull, ht]
  rfl

theorem pull_of_busy_inside (ht : t.state = .busy) (hlt : t.cursor < t.endIndex) :
    pull t = pullBodyByte t := by
  simp only [pull, ht, if_pos hlt]

/-- The closing delimiter (42_frame_transmitter.md R165). -/
theorem pull_of_busy_at_end (ht : t.state = .busy) (hle : t.endIndex ≤ t.cursor) :
    pull t = (some 0xC0#8, { t with state := .closing }) := by
  simp only [pull, ht, if_neg (Nat.not_lt.2 hle)]
  rfl

/-- 42_frame_transmitter.md R166. -/
theorem pull_of_closing (ht : t.state = .closing) : pull t = (none, { t with state := .idle }) := by
  simp only [pull, ht]

/-- 42_frame_transmitter.md R167. -/
theorem pull_of_idle (ht : t.state = .idle) : pull t = (none, t) := by
  simp only [pull, ht]

end

/-- `TX_PULL` takes over the transmitter a pull leaves and emits its result, and does nothing else
(42_frame_transmitter.md R160). -/
theorem txPull_of_pull {s : State} {r : Option Byte} {t : Transmit} (h : pull s.tx = (r, t)) :
    txPull s =
      { s with tx := t, trace := { s.trace with ports := s.trace.ports ++ [.pulled r] } } := by
  rw [txPull, h]
  rfl

/-- Settles O8: each row is the pull of its state; inside the body, the one the byte at the cursor selects by
its escape code. -/
theorem transmitterFollowsItsTransitionTable : Obligations.TransmitterFollowsItsTransitionTable := by
  intro s
  refine ⟨fun ht => ?ready, fun ht hlt hv => ?busyDelimiter, fun ht hlt hv => ?busyEscape,
    fun v ht hlt hv hfend hfesc => ?busyOther, fun ht hle => ?busyAtEnd, fun ht => ?closing,
    fun ht => ?idle⟩
  case ready => exact txPull_of_pull (pull_of_ready ht)
  case busyDelimiter =>
    exact txPull_of_pull ((pull_of_busy_inside ht hlt).trans (pullBodyByte_of_escaped hv rfl))
  case busyEscape =>
    exact txPull_of_pull ((pull_of_busy_inside ht hlt).trans (pullBodyByte_of_escaped hv rfl))
  case busyOther =>
    exact txPull_of_pull ((pull_of_busy_inside ht hlt).trans
      (pullBodyByte_of_plain hv (escapeCode_of_ordinary hfend hfesc)))
  case busyAtEnd => exact txPull_of_pull (pull_of_busy_at_end ht hle)
  case closing => exact txPull_of_pull (pull_of_closing ht)
  case idle => exact txPull_of_pull (pull_of_idle ht)

end Sys2Proof.Machine
end

section
/-! PROOFS. Dispatch and the sequence number (43_dispatch_and_reply.md R184 to R194): what every handler leaves
to the outcome, the three roads a request takes, and which parts of an event can load a frame. -/

namespace Sys2Proof.Machine

/-! ### What a handler leaves to its outcome -/

/-- Two states that agree in all that the outcome of a request (43_dispatch_and_reply.md R187 to R190) and the
loading of a frame (R193) write. -/
structure SameSequencing (s t : State) : Prop where
  tx : t.tx = s.tx
  masterSeq : t.session.masterSeq = s.session.masterSeq
  slaveSeq : t.session.slaveSeq = s.session.slaveSeq
  logTimeoutCounter : t.session.logTimeoutCounter = s.session.logTimeoutCounter
  isReplyPending : t.session.isReplyPending = s.session.isReplyPending
  absorbed : t.trace.absorbed = s.trace.absorbed

theorem SameSequencing.refl (s : State) : SameSequencing s s := ⟨rfl, rfl, rfl, rfl, rfl, rfl⟩

theorem handleLogstart_same (p : List Byte) (s : State) : SameSequencing s (handleLogstart p s).2 := by
  unfold handleLogstart
  split
  · exact .refl s
  · split
    · exact .refl s
    · exact ⟨rfl, rfl, rfl, rfl, rfl, rfl⟩

theorem handleLogstop_same (s : State) : SameSequencing s (handleLogstop s).2 := ⟨rfl, rfl, rfl, rfl, rfl, rfl⟩

theorem handleLogperiod_same (o : Operands Half) (s : State) : SameSequencing s (handleLogperiod o s).2 := by
  cases o with
  | badLength p => exact .refl s
  | fields period =>
    simp only [handleLogperiod]
    split
    · exact .refl s
    · exact ⟨rfl, rfl, rfl, rfl, rfl, rfl⟩

theorem memWrite_same (a : Addr) (w : Width) (data : List Byte) (s : State) :
    SameSequencing s (memWrite a w data s).2 := by
  obtain ⟨-, -, htx, hsession, -, habsorbed, -, -⟩ := memWrite_frame a w data s
  constructor <;> simp only [htx, hsession, habsorbed]

theorem handleWrite_same (o : Operands WriteFields) (s : State) : SameSequencing s (handleWrite o s).2 := by
  rcases handleWrite_cases o s with h | ⟨f, -, -, ⟨-, h⟩ | ⟨-, h⟩⟩ <;> rw [h]
  · exact .refl s
  · exact memWrite_same ..
  · exact memWrite_same ..

theorem handleLogcfg_same (o : Operands CfgFields) (s : State) : SameSequencing s (handleLogcfg o s).2 := by
  rcases handleLogcfg_cases o s with ⟨array, -, h⟩ | ⟨array, c, n, -, -, -, -, h⟩ <;> rw [h]
  · exact ⟨rfl, rfl, rfl, rfl, rfl, rfl⟩
  · exact ⟨rfl, rfl, rfl, rfl, rfl, rfl⟩

theorem handleAuth_same (o : Operands Word) (s : State) : SameSequencing s (handleAuth o s).2 := by
  cases o with
  | badLength p => exact .refl s
  | fields key =>
    simp only [handleAuth]
    split
    · exact ⟨rfl, rfl, rfl, rfl, rfl, rfl⟩
    · exact ⟨rfl, rfl, rfl, rfl, rfl, rfl⟩

theorem handleDump_same (o : Operands DumpFields) (s : State) : SameSequencing s (handleDump o s).2 := by
  cases o with
  | badLength p => exact .refl s
  | fields f =>
    simp only [handleDump]
    split
    · exact .refl s
    · exact ⟨rfl, rfl, rfl, rfl, rfl, rfl⟩

theorem handleBypass_same (p : List Byte) (s : State) : SameSequencing s (handleBypass p s).2 := by
  rcases handleBypass_cases p s with ⟨-, h⟩ | ⟨-, v, b, -, h⟩ <;> rw [h]
  · exact ⟨rfl, rfl, rfl, rfl, rfl, rfl⟩
  · exact ⟨rfl, rfl, rfl, rfl, rfl, rfl⟩

/-! ### The three roads of a request -/

/-- A request is AUTH, which no gate stands before, or has a reserved opcode, or runs a handler behind the gate
(43_dispatch_and_reply.md R184, R185); no handler touches what the outcome writes. -/
theorem exec_request_cases {i : Instr} {op : Nibble} (hop : i.opcode = some op) (s : State) :
    (op = 0x6#4 ∧ ∃ o, exec i s = .next (runHandler i.masterSeq (handleAuth o) s)) ∨
    exec i s = .next (reservedOpcode s) ∨
    ∃ h : Handler, (∀ u, SameSequencing u (h u).2) ∧ exec i s = .next (privileged i.masterSeq h s) := by
  cases i with
  | auth m o => exact .inl ⟨(Option.some.inj hop).symm, o, rfl⟩
  | logstart m p => exact .inr (.inr ⟨_, handleLogstart_same p, rfl⟩)
  | logstop m p => exact .inr (.inr ⟨_, handleLogstop_same, rfl⟩)
  | logperiod m o => exact .inr (.inr ⟨_, handleLogperiod_same o, rfl⟩)
  | write m o => exact .inr (.inr ⟨_, handleWrite_same o, rfl⟩)
  | logcfg m o => exact .inr (.inr ⟨_, handleLogcfg_same o, rfl⟩)
  | dump m o => exact .inr (.inr ⟨_, handleDump_same o, rfl⟩)
  | bypass m p => exact .inr (.inr ⟨_, handleBypass_same p, rfl⟩)
  | reserved0 m p | reserved9 m p | reservedA m p | reservedB m p | reservedC m p | reservedD m p
  | reservedE m p | reservedF m p => exact .inr (.inl rfl)
  | reply | telemetry | fend | fesc | tfend | tfesc => cases hop

theorem reservedOpcode_unauthenticated {s : State} (ha : s.session.isAuthenticated = false) :
    reservedOpcode s = s.absorb .auth := by
  simp [reservedOpcode, ha]

/-- Settles O18: the gate stands on both roads that are not AUTH's. -/
theorem gateRefusesAllButAuth : Obligations.GateRefusesAllButAuth := by
  intro i op s hop hne ha
  rcases exec_request_cases hop s with ⟨hauth, -⟩ | h | ⟨handler, -, h⟩
  · exact absurd hauth hne
  · rw [h, reservedOpcode_unauthenticated ha]
    rfl
  · rw [h, privileged_unauthenticated ha]
    rfl

/-! ### The outcome of a request -/

/-- What the dispatcher does with a request of master sequence `m` (43_dispatch_and_reply.md R187, R190):
accepted, or ended in one Error. -/
def RequestOutcome (m : Nibble) (s t : State) : Prop :=
  (t.trace.absorbed = s.trace.absorbed ∧ t.session.masterSeq = m ∧ t.session.logTimeoutCounter = 0) ∨
  ∃ cls, t.trace.absorbed = s.trace.absorbed ++ [cls] ∧
    t.session.masterSeq = s.session.masterSeq ∧
    t.session.logTimeoutCounter = s.session.logTimeoutCounter ∧
    t.session.isReplyPending = s.session.isReplyPending

theorem SameSequencing.outcome_absorb {s u : State} (h : SameSequencing s u) (m : Nibble) (cls : ErrorClass) :
    RequestOutcome m s (u.absorb cls) :=
  .inr ⟨cls, congrArg (· ++ [cls]) h.absorbed, h.masterSeq, h.logTimeoutCounter, h.isReplyPending⟩

/-- A handler's request leaves the transmitter and `slaveSeq`, and its verdict alone decides the rest. -/
theorem runHandler_outcome {h : Handler} (hh : ∀ u, SameSequencing u (h u).2) (m : Nibble) (s : State) :
    (runHandler m h s).tx = s.tx ∧ (runHandler m h s).session.slaveSeq = s.session.slaveSeq ∧
    RequestOutcome m s (runHandler m h s) := by
  have hu : SameSequencing s (h (s.setPending emptyBlock)).2 := by
    obtain ⟨htx, hmaster, hslave, hcounter, hpending, habsorbed⟩ := hh (s.setPending emptyBlock)
    exact ⟨htx, hmaster, hslave, hcounter, hpending, habsorbed⟩
  rcases runHandler_cases m h s with ⟨u, e, r⟩ | ⟨u, e, r⟩ | ⟨u, cls, e, r⟩ <;> rw [e] at hu <;> rw [r]
  · exact ⟨hu.tx, hu.slaveSeq, .inl ⟨hu.absorbed, rfl, rfl⟩⟩
  · exact ⟨hu.tx, hu.slaveSeq, .inl ⟨hu.absorbed, rfl, rfl⟩⟩
  · exact ⟨hu.tx, hu.slaveSeq, hu.outcome_absorb m cls⟩

/-- On each of its roads a request leaves the transmitter and `slaveSeq` (43_dispatch_and_reply.md R194) and is
accepted or ends in one Error. -/
theorem exec_request_outcome {i : Instr} {op : Nibble} {s t : State} (hop : i.opcode = some op)
    (h : exec i s = .next t) :
    t.tx = s.tx ∧ t.session.slaveSeq = s.session.slaveSeq ∧ RequestOutcome i.masterSeq s t := by
  have refused (cls : ErrorClass) : (s.absorb cls).tx = s.tx ∧
      (s.absorb cls).session.slaveSeq = s.session.slaveSeq ∧ RequestOutcome i.masterSeq s (s.absorb cls) :=
    ⟨rfl, rfl, (SameSequencing.refl s).outcome_absorb _ cls⟩
  rcases exec_request_cases hop s with ⟨-, o, e⟩ | e | ⟨handler, hh, e⟩ <;> cases e.symm.trans h
  · exact runHandler_outcome (handleAuth_same o) _ s
  · obtain ⟨cls, r⟩ := reservedOpcode_cases s
    exact r ▸ refused cls
  · rcases privileged_cases i.masterSeq handler s with ⟨-, r⟩ | ⟨-, r⟩ <;> rw [r]
    · exact refused .auth
    · exact runHandler_outcome hh _ s

/-- Settles O19: the outcome of a request, on whichever road it took. -/
theorem onlyAcceptedRequestsAdoptTheSequence : Obligations.OnlyAcceptedRequestsAdoptTheSequence := by
  intro i op s t hop h
  obtain ⟨-, hseq, hout⟩ := exec_request_outcome hop h
  exact ⟨hseq, hout⟩

/-! ### The sequence `next` (43_dispatch_and_reply.md R194) -/

theorem nextSeq_toNat (x : Nibble) : (nextSeq x).toNat = x.toNat % 15 + 1 := by
  unfold nextSeq
  split
  · rename_i h
    subst h
    rfl
  · bv_omega

/-- From 1, `next` runs through 1 to 15 with period 15. -/
theorem nextSeq_iterate_toNat (n : Nat) : (nextSeq^[n] 1#4).toNat = n % 15 + 1 := by
  induction n with
  | zero => rfl
  | succ n ih =>
    rw [Function.iterate_succ_apply', nextSeq_toNat, ih]
    omega

/-! ### Which events load a frame -/

/-- At most one frame loaded: transmitter and `slaveSeq` as before, or an idle transmitter made ready and
`slaveSeq` advanced once (43_dispatch_and_reply.md R193, R194). -/
def LoadsAtMostOne (s t : State) : Prop :=
  (t.session.slaveSeq = s.session.slaveSeq ∧ t.tx = s.tx) ∨
  (t.session.slaveSeq = nextSeq s.session.slaveSeq ∧ s.tx.state = .idle ∧ t.tx.state = .ready)

/-- A second load would need the transmitter idle that the first one made ready. -/
theorem LoadsAtMostOne.trans {s t u : State} (h : LoadsAtMostOne s t) (k : LoadsAtMostOne t u) :
    LoadsAtMostOne s u := by
  rcases h with ⟨hseq, htx⟩ | ⟨hseq, hidle, hready⟩
  · rw [LoadsAtMostOne, ← hseq, ← htx]
    exact k
  · rcases k with ⟨kseq, ktx⟩ | ⟨-, kidle, -⟩
    · exact .inr ⟨kseq.trans hseq, hidle, ktx ▸ hready⟩
    · cases hready.symm.trans kidle

/-- A frame is loaded whole, or abandoned at a `Fault` (43_dispatch_and_reply.md R195). -/
theorem readAndLoad_loads (l : List (Addr × Width)) {s : State} (hidle : s.tx.state = .idle) :
    LoadsAtMostOne s (readAndLoad l s) := by
  obtain ⟨u, hu, h | ⟨p, -, h⟩⟩ := readAndLoad_cases l s <;> rw [h]
  · exact .inl ⟨congrArg Session.slaveSeq hu.session, hu.tx⟩
  · exact .inr ⟨congrArg (nextSeq ∘ Session.slaveSeq) hu.session, hidle, rfl⟩

/-- T3 loads into an idle transmitter only (43_dispatch_and_reply.md R192). -/
theorem exec_reply_loads {s t : State} (h : exec .reply s = .next t) : LoadsAtMostOne s t := by
  obtain rfl := Host.Outcome.next.inj h
  split
  · rename_i hcond
    exact readAndLoad_loads (s := s.setReplyPending false) _ hcond.2
  · exact .inl ⟨rfl, rfl⟩

/-- So does a sample (45_log_scheduler.md R244). -/
theorem exec_telemetry_loads {s t : State} (h : exec .telemetry s = .next t) : LoadsAtMostOne s t := by
  obtain rfl := Host.Outcome.next.inj h
  split
  · rename_i hallowed
    have hidle : s.tx.state = .idle := by
      simp only [sampleAllowed, Bool.and_eq_true, decide_eq_true_eq] at hallowed
      exact hallowed.1.1.2
    exact readAndLoad_loads _ hidle
  · exact .inl ⟨rfl, rfl⟩

theorem sampler_loads {e : Half} {s t : State} (h : sampler e s = .next t) : LoadsAtMostOne s t := by
  unfold sampler at h
  split at h
  · split at h
    · exact exec_telemetry_loads (s := s.setIntervalCounter 0) h
    · cases h
      exact .inl ⟨rfl, rfl⟩
  · cases h
    exact .inl ⟨rfl, rfl⟩

/-- T1 changes the receiver alone (41_frame_receiver.md R150). -/
theorem rxTimeout_loads (e : Half) (s : State) : LoadsAtMostOne s (rxTimeout e s) := by
  obtain ⟨-, htx, hsession, -⟩ := rxTimeout_frame e s
  exact .inl ⟨congrArg Session.slaveSeq hsession, htx⟩

theorem watchdog_loads (e : Half) (s : State) : LoadsAtMostOne s (watchdog e s) := by
  unfold watchdog
  split
  · simp only []
    split <;> exact .inl ⟨rfl, rfl⟩
  · exact .inl ⟨rfl, rfl⟩

/-- T2 runs a request, and no request loads a frame: its reply is left to T3. -/
theorem consume_loads {s t : State} (h : consume s = .next t) : LoadsAtMostOne s t := by
  rcases consume_cases h with ⟨-, rfl⟩ | ⟨-, rfl⟩ | ⟨i, u, -, hdecode, hexec, rfl⟩
  · exact .inl ⟨rfl, rfl⟩
  · exact .inl ⟨rfl, rfl⟩
  · obtain ⟨seq, p, -, -, -, rfl⟩ := decode_body_ok hdecode
    obtain ⟨op, hop⟩ := decodeRequest_opcode s.cfg seq p
    obtain ⟨htx, hseq, -⟩ := exec_request_outcome hop hexec
    exact .inl ⟨hseq, htx⟩

/-- A `TICK` loads at most one frame, be it in T3 or in T5. -/
theorem tick_loads {e : Half} {s t : State} (h : tick e s = .next t) : LoadsAtMostOne s t := by
  obtain ⟨s2, s3, hconsume, hreply, hsampler⟩ := tick_cases h
  exact (rxTimeout_loads e s).trans <| (consume_loads hconsume).trans <| (exec_reply_loads hreply).trans <|
    (watchdog_loads e s3).trans (sampler_loads hsampler)

/-- An action that reaches neither the session nor the transmitter. -/
def LeavesSessionAndTx (f : State → State) : Prop := ∀ s, (f s).session = s.session ∧ (f s).tx = s.tx

/-- The guard clears the receiver alone, so `RX_PUSH` reaches no further than the rows of its byte. -/
theorem receive_leaves {f g k : State → State} (hf : LeavesSessionAndTx f) (hg : LeavesSessionAndTx g)
    (hk : LeavesSessionAndTx k) : LeavesSessionAndTx (receive f g k) := by
  intro s
  have hguard : (overflowGuard s).session = s.session ∧ (overflowGuard s).tx = s.tx := by
    rcases overflowGuard_cases s with h | h <;> rw [h] <;> exact ⟨rfl, rfl⟩
  have after {r : State → State} (hr : LeavesSessionAndTx r) :
      (r (overflowGuard s)).session = s.session ∧ (r (overflowGuard s)).tx = s.tx :=
    ⟨(hr _).1.trans hguard.1, (hr _).2.trans hguard.2⟩
  rcases receive_cases f g k s with ⟨-, h⟩ | ⟨-, -, h⟩ | ⟨-, -, h⟩ | ⟨-, -, h⟩ | ⟨-, -, h⟩ <;> rw [h]
  · exact ⟨rfl, rfl⟩
  · exact after hf
  · exact after hg
  · exact after hk
  · exact hguard

theorem id_leaves : LeavesSessionAndTx id := fun _ => ⟨rfl, rfl⟩

theorem rxOpen_leaves : LeavesSessionAndTx State.rxOpen := fun _ => ⟨rfl, rfl⟩

theorem setRxState_leaves (r : RxState) : LeavesSessionAndTx (State.setRxState r) := fun _ => ⟨rfl, rfl⟩

theorem rxAppend_leaves (v : Byte) : LeavesSessionAndTx (State.rxAppend v) := fun _ => ⟨rfl, rfl⟩

theorem malformedEscape_leaves : LeavesSessionAndTx malformedEscape := fun _ => ⟨rfl, rfl⟩

theorem delimiterInFrame_leaves : LeavesSessionAndTx delimiterInFrame := by
  intro s
  unfold delimiterInFrame
  split
  · exact rxOpen_leaves s
  · exact setRxState_leaves .complete s

/-- `RX_PUSH` owns the receiver alone (41_frame_receiver.md R140). -/
theorem rxPush_leaves {b : Byte} {s t : State} (h : rxPush b s = .next t) :
    t.session = s.session ∧ t.tx = s.tx := by
  rw [rxPush_eq] at h
  obtain rfl := Host.Outcome.next.inj h
  split_ifs
  · exact receive_leaves rxOpen_leaves delimiterInFrame_leaves malformedEscape_leaves s
  · exact receive_leaves id_leaves (setRxState_leaves .escaping) malformedEscape_leaves s
  · exact receive_leaves id_leaves (rxAppend_leaves _) (rxAppend_leaves _) s
  · exact receive_leaves id_leaves (rxAppend_leaves _) (rxAppend_leaves _) s
  · exact receive_leaves id_leaves (rxAppend_leaves b) malformedEscape_leaves s

theorem pullBodyByte_state (x : Transmit) : (pullBodyByte x).2.state = x.state := by
  unfold pullBodyByte
  split <;> rfl

/-- No pull ends in `Ready` (42_frame_transmitter.md R161). -/
theorem pull_state_ne_ready (x : Transmit) : (pull x).2.state ≠ .ready := by
  cases hx : x.state with
  | idle => simp [pull_of_idle hx, hx]
  | ready => simp [pull_of_ready hx]
  | busy =>
    rcases Nat.lt_or_ge x.cursor x.endIndex with hlt | hle
    · simp [pull_of_busy_inside hx hlt, pullBodyByte_state, hx]
    · simp [pull_of_busy_at_end hx hle]
  | closing => simp [pull_of_closing hx]

/-- Settles O51: `next` runs with period 15; a `TICK` loads at most one frame, and no other event any. -/
theorem slaveSeqAdvancesOncePerLoadedFrame : Obligations.SlaveSeqAdvancesOncePerLoadedFrame := by
  refine ⟨rfl, rfl, fun x _ hle => ?next, nextSeq_iterate_toNat, fun s t h hreset => ?step⟩
  case next =>
    rw [nextSeq_toNat]
    omega
  case step =>
    obtain ⟨-, ⟨-, rfl⟩ | ⟨rest, hin, -⟩ | ⟨b, rest, -, hpush⟩ | ⟨rest, -, rfl⟩ | ⟨e, rest, -, htick⟩⟩ :=
      step_cases h
    · exact .inl ⟨rfl, id⟩
    · exact absurd hin (hreset rest)
    · obtain ⟨hsession, htx⟩ := rxPush_leaves hpush
      exact .inl ⟨congrArg Session.slaveSeq hsession, fun ht => htx ▸ ht⟩
    · exact .inl ⟨rfl, fun ht => absurd ht (pull_state_ne_ready s.tx)⟩
    · rcases tick_loads htick with ⟨hseq, htx⟩ | hload
      · exact .inl ⟨hseq, fun ht => htx ▸ ht⟩
      · exact .inr hload

end Sys2Proof.Machine
end

section
/-! PROOFS. The CRC (40_crc8.md) and the encoding (30_encoding.md): a body closed with its own CRC, the two
length tables, and decoder and encoder as inverses of each other. -/

namespace Sys2Proof.Machine

/-! ### The CRC of a closed body (40_crc8.md section 3) -/

/-- With itself a CRC is the table's entry 0. -/
theorem crcStep_self {table : List Byte} (h : table.head? = some 0#8) (x : Byte) : crcStep table x x = 0#8 := by
  rw [crcStep, BitVec.xor_self, List.getD_eq_getElem?_getD, BitVec.toNat_ofNat, Nat.zero_mod,
    ← List.head?_eq_getElem?, h]
  rfl

theorem crcTable_head {c : Config} (hc : configOk c = true) : c.crcTable.head? = some 0#8 := by
  simp only [configOk, Bool.and_eq_true, decide_eq_true_eq] at hc
  exact hc.2

/-- A body closed with its own CRC has CRC 0, for every table the parameters allow. -/
theorem crc8_closed {c : Config} (hc : configOk c = true) (s : List Byte) :
    crc8 c.crcTable (s ++ [crc8 c.crcTable s]) = 0#8 := by
  rw [crc8_concat, crcStep_self (crcTable_head hc)]

theorem referenceCrcTable_length : referenceCrcTable.length = 256 := by decide +kernel

theorem zero_not_mem_referenceCrcTable_tail : 0#8 ∉ referenceCrcTable.tail := by decide +kernel

/-- The reference table has its one 0 at index 0. -/
theorem referenceCrcTable_zero_iff (v : Byte) : referenceCrcTable.getD v.toNat 0#8 = 0#8 ↔ v = 0#8 := by
  refine ⟨fun h => ?_, fun h => by subst h; rfl⟩
  cases hv : v.toNat with
  | zero => exact BitVec.eq_of_toNat_eq hv
  | succ n =>
    have hlt : n < referenceCrcTable.tail.length := by
      have hbound := v.isLt
      rw [List.length_tail, referenceCrcTable_length]
      omega
    rw [hv, List.getD_eq_getElem?_getD, ← List.getElem?_tail, List.getElem?_eq_getElem hlt] at h
    exact absurd (h ▸ List.getElem_mem hlt) zero_not_mem_referenceCrcTable_tail

/-- With the reference table only a body's own CRC closes it. -/
theorem crc8_reference_closed_iff (s : List Byte) (x : Byte) :
    crc8 referenceCrcTable (s ++ [x]) = 0#8 ↔ x = crc8 referenceCrcTable s := by
  rw [crc8_concat, crcStep, referenceCrcTable_zero_iff, BitVec.xor_eq_zero_iff, eq_comm]

/-- Settles O10: the table's entry 0 closes, and the reference table has no other 0. -/
theorem crcClosesABodyAndOnlyItself : Obligations.CrcClosesABodyAndOnlyItself :=
  ⟨fun _ s hc => crc8_closed hc s, crc8_reference_closed_iff⟩

/-- Every byte is an entry; the entries are compared as numbers, which the kernel does fast. -/
theorem mem_referenceCrcTable (v : Byte) : v ∈ referenceCrcTable := by
  have h : ∀ n < 256, n ∈ referenceCrcTable.map BitVec.toNat := by decide +kernel
  obtain ⟨w, hw, hwv⟩ := List.mem_map.1 (h v.toNat v.isLt)
  exact BitVec.eq_of_toNat_eq hwv ▸ hw

/-- Settles O11: the 256 printed entries against the generated ones, and every byte among them. -/
theorem referenceTableComesFromThePolynomial : Obligations.ReferenceTableComesFromThePolynomial :=
  ⟨by decide +kernel, referenceCrcTable_length, mem_referenceCrcTable⟩

/-! ### The length tables (30_encoding.md section 4) -/

/-- Settles O12: each table answers exactly the lengths of its layouts. -/
theorem lengthTablesFollowThePayloadLayouts : Obligations.LengthTablesFollowThePayloadLayouts := by
  refine fun c len => ⟨fun z => ⟨writeSize_some, ?_⟩, fun n => ⟨cfgCount_some, ?_⟩⟩
  · rintro ⟨hz, rfl⟩
    exact writeSize_layout hz
  · rintro rfl
    exact cfgCount_layout c n

/-! ### Decoding what was encoded -/

/-- A body that a host closes is decoded to the request of its `SEQ` and payload. -/
theorem decode_frameBody {c : Config} (hc : configOk c = true) (seq : Byte) (p : List Byte) :
    decode c .body (frameBody c seq p) = .ok (decodeRequest c seq p) := by
  have hlen : ¬ (frameBody c seq p).length < 2 := by rw [frameBody_length]; omega
  have hcrc : crc8 c.crcTable (frameBody c seq p) = 0#8 := crc8_closed hc (seq :: p)
  have hpayload : ((frameBody c seq p).drop 1).dropLast = p := by simp [frameBody]
  simp only [decode, decodeBody, hlen, hcrc, hpayload, if_false, ne_eq, not_true]
  rfl

/-- A request is encoded as the body of its opcode. -/
theorem encode_of_opcode {c : Config} {i : Instr} {op : Nibble} (h : i.opcode = some op) :
    encode c i = encodeRequest c op i := by
  cases i <;> cases h <;> rfl

theorem opcode_of_layer_body {i : Instr} (h : i.layer = some .body) : ∃ op, i.opcode = some op := by
  cases i with
  | reply | telemetry | fend | fesc | tfend | tfesc => cases h
  | _ => exact ⟨_, rfl⟩

/-- Reading the fields of a request gives it back, if its operands fit. -/
theorem decodeRequest_payload {c : Config} {i : Instr} {op : Nibble} (hop : i.opcode = some op)
    (hok : i.operandsOk c = true) : decodeRequest c (seqByte i.masterSeq op) (i.payload c) = i := by
  cases i with
  | logperiod m o => cases hop; simp [decodeRequest, Instr.masterSeq, Instr.payload, readPeriod_payload hok]
  | write m o => cases hop; simp [decodeRequest, Instr.masterSeq, Instr.payload, readWrite_payload hok]
  | logcfg m o => cases hop; simp [decodeRequest, Instr.masterSeq, Instr.payload, readCfg_payload hok]
  | auth m o => cases hop; simp [decodeRequest, Instr.masterSeq, Instr.payload, readAuth_payload hok]
  | dump m o => cases hop; simp [decodeRequest, Instr.masterSeq, Instr.payload, readDump_payload hok]
  | reply | telemetry | fend | fesc | tfend | tfesc => cases hop
  | _ => cases hop; simp [decodeRequest, Instr.masterSeq, Instr.payload]

/-- The body layer of O13. -/
theorem decode_encode_request {c : Config} {i : Instr} (hc : configOk c = true)
    (hok : i.operandsOk c = true) (hl : i.layer = some .body) : decode c .body (encode c i) = .ok i := by
  obtain ⟨op, hop⟩ := opcode_of_layer_body hl
  rw [encode_of_opcode hop, encodeRequest, decode_frameBody hc, decodeRequest_payload hop hok]

theorem decode_encode_wire {c : Config} {i : Instr} (hl : i.layer = some .wire) :
    decode c .wire (encode c i) = .ok i := by
  cases i with
  | fend | fesc | tfend | tfesc => rfl
  | _ => cases hl

/-- Settles O13: layer by layer. -/
theorem decodeOfEncodeIsTheInstruction : Obligations.DecodeOfEncodeIsTheInstruction := by
  intro c i layer hc hw hl
  simp only [Instr.wellFormed, Bool.and_eq_true] at hw
  cases layer with
  | wire => exact decode_encode_wire hl
  | body => exact decode_encode_request hc hw.1 hl

/-! ### Encoding what was decoded -/

/-- What the decoder reads from a `SEQ` byte and a payload: both again, and operands that fit. -/
theorem decodeRequest_reads (c : Config) (seq : Byte) (p : List Byte) :
    (decodeRequest c seq p).opcode = some (seqLower seq) ∧
    (decodeRequest c seq p).masterSeq = seqUpper seq ∧ (decodeRequest c seq p).payload c = p ∧
    (decodeRequest c seq p).operandsOk c = true ∧ (decodeRequest c seq p).layer = some .body := by
  have opcode {k : Nat} (h : (seqLower seq).toNat = k) : some (BitVec.ofNat 4 k) = some (seqLower seq) := by
    rw [← h, BitVec.ofNat_toNat, BitVec.setWidth_eq]
  unfold decodeRequest
  split
  case h_4 h => exact ⟨opcode h, rfl, (periodPayload_read p).1, (periodPayload_read p).2, rfl⟩
  case h_5 h => exact ⟨opcode h, rfl, (writePayload_read c p).1, (writePayload_read c p).2, rfl⟩
  case h_6 h => exact ⟨opcode h, rfl, (cfgPayload_read c p).1, (cfgPayload_read c p).2, rfl⟩
  case h_7 h => exact ⟨opcode h, rfl, (authPayload_read p).1, (authPayload_read p).2, rfl⟩
  case h_8 h => exact ⟨opcode h, rfl, (dumpPayload_read c p).1, (dumpPayload_read c p).2, rfl⟩
  case h_16 =>
    have hlt := (seqLower seq).isLt
    have h15 : (seqLower seq).toNat = 15 := by grind
    exact ⟨opcode h15, rfl, rfl, rfl, rfl⟩
  all_goals
    rename_i h
    exact ⟨opcode h, rfl, rfl, rfl, rfl⟩

/-- The body layer of O14: the closing byte is the CRC, since with the reference table no other byte closes. -/
theorem encode_decode_body {c : Config} (hc : c.crcTable = referenceCrcTable) {bytes : List Byte} {i : Instr}
    (h : decode c .body bytes = .ok i) :
    encode c i = bytes ∧ i.operandsOk c = true ∧ i.layer = some .body := by
  obtain ⟨seq, p, x, rfl, hcrc, rfl⟩ := decode_body_ok h
  obtain ⟨hop, hmaster, hpayload, hok, hlayer⟩ := decodeRequest_reads c seq p
  refine ⟨?_, hok, hlayer⟩
  rw [hc, crc8_reference_closed_iff] at hcrc
  rw [encode_of_opcode hop, encodeRequest, hmaster, hpayload, seqByte_upper_lower, frameBody, hc, hcrc]

/-- The four special bytes, each read as its row. -/
theorem decodeWireByte_some {b : Byte} {i : Instr} (h : decodeWireByte b = some i) :
    (b = fendByte ∧ i = .fend) ∨ (b = fescByte ∧ i = .fesc) ∨ (b = tfendByte ∧ i = .tfend) ∨
      (b = tfescByte ∧ i = .tfesc) := by
  unfold decodeWireByte at h
  split_ifs at h with h1 h2 h3 h4 <;> cases h
  · exact .inl ⟨h1, rfl⟩
  · exact .inr (.inl ⟨h2, rfl⟩)
  · exact .inr (.inr (.inl ⟨h3, rfl⟩))
  · exact .inr (.inr (.inr ⟨h4, rfl⟩))

/-- What decodes at the wire layer is one special byte. -/
theorem decode_wire_ok {c : Config} {bytes : List Byte} {i : Instr} (h : decode c .wire bytes = .ok i) :
    ∃ b, bytes = [b] ∧ decodeWireByte b = some i := by
  simp only [decode] at h
  split at h
  · rename_i b
    split at h
    · rename_i j hj
      cases h
      exact ⟨b, rfl, hj⟩
    · cases h
  · cases h

theorem encode_decode_wire {c : Config} {bytes : List Byte} {i : Instr} (h : decode c .wire bytes = .ok i) :
    encode c i = bytes ∧ i.operandsOk c = true ∧ i.layer = some .wire := by
  obtain ⟨b, rfl, hb⟩ := decode_wire_ok h
  obtain ⟨rfl, rfl⟩ | ⟨rfl, rfl⟩ | ⟨rfl, rfl⟩ | ⟨rfl, rfl⟩ := decodeWireByte_some hb <;> exact ⟨rfl, rfl, rfl⟩

/-- Settles O14: layer by layer. -/
theorem encodeOfDecodeIsTheBytes : Obligations.EncodeOfDecodeIsTheBytes := by
  intro c layer bytes i hc h
  cases layer with
  | wire => exact encode_decode_wire h
  | body => exact encode_decode_body hc h

/-- Settles O15: six closed evaluations of the decoder. -/
theorem wordsOfTheSpecDecodeToTheirInstructions : Obligations.WordsOfTheSpecDecodeToTheirInstructions :=
  ⟨rfl, rfl, rfl, rfl, rfl, rfl⟩

end Sys2Proof.Machine
end

section
/-! PROOFS. The Frame Receiver (41_frame_receiver.md): the four special bytes, the overflow guard, the time-out,
and the reception of a whole frame (section 6), whose bytes are pushed one step each. -/

namespace Sys2Proof.Machine

/-! ### The four special bytes (41_frame_receiver.md R141) -/

section
variable (s : State)

theorem exec_fend_eq : exec .fend s = rxPush 0xC0#8 s := rfl
theorem exec_fesc_eq : exec .fesc s = rxPush 0xDB#8 s := rfl
theorem exec_tfend_eq : exec .tfend s = rxPush 0xDC#8 s := rfl
theorem exec_tfesc_eq : exec .tfesc s = rxPush 0xDD#8 s := rfl

end

/-- A delimiter inside a frame, doubled or closing (41_frame_receiver.md R145, R154). -/
theorem delimiterInFrame_of_framing {s : State} (hr : s.rx.state = .framing) :
    delimiterInFrame s =
      { s with rx := if s.rx.length = 0 then { s.rx with timeoutCounter := 0 }
        else { s.rx with state := .complete } } := by
  by_cases h0 : s.rx.length = 0
  · rw [delimiterInFrame_of_empty hr h0, if_pos h0]
  · rw [delimiterInFrame_of_nonempty (Nat.pos_of_ne_zero h0), if_neg h0]
    rfl

/-- Settles O5: each special byte is its `RX_PUSH`, state by state. -/
theorem specialBytesFollowTheirRows : Obligations.SpecialBytesFollowTheirRows := by
  intro s hl
  rw [exec_fend_eq, exec_fesc_eq, exec_tfend_eq, exec_tfesc_eq]
  refine ⟨fun hr => ?idle, fun hr => ?framing, fun hr => ?escaping, fun hr => ?complete⟩
  case idle => simp only [rxPush_of_idle _ hr]; exact ⟨rfl, rfl, rfl, rfl⟩
  case framing =>
    simp only [rxPush_of_framing _ hr hl, delimiterInFrame_of_framing hr, rxAppend_of_framing hr]
    exact ⟨rfl, rfl, rfl, rfl⟩
  case escaping => simp only [rxPush_of_escaping _ hr hl]; exact ⟨rfl, rfl, rfl, rfl⟩
  case complete => simp only [rxPush_of_complete _ hr, and_self]

/-! ### The overflow guard and the time-out (41_frame_receiver.md sections 3 and 4) -/

/-- A full buffer inside a frame: the frame is abandoned and the byte in hand examined from `Idle`
(41_frame_receiver.md R149). -/
theorem receive_of_full {s : State} {f g k : State → State} (hr : s.rx.state = .framing ∨ s.rx.state = .escaping)
    (hl : s.cfg.rxCap ≤ s.rx.length) : receive f g k s = f (s.rxReset.absorb .framing) := by
  have hg : overflowGuard s = s.rxReset.absorb .framing := if_pos ⟨hr, hl⟩
  have hc : s.rx.state ≠ .complete := by rcases hr with h | h <;> simp [h]
  rw [receive, if_neg hc, hg]
  rfl

theorem rxPush_of_full {s : State} (b : Byte) (hr : s.rx.state = .framing ∨ s.rx.state = .escaping)
    (hl : s.cfg.rxCap ≤ s.rx.length) :
    rxPush b s =
      .next (if b = 0xC0#8 then (s.rxReset.absorb .framing).rxOpen else s.rxReset.absorb .framing) := by
  simp only [rxPush_eq, receiveOrdinary, receive_of_full hr hl, id, ite_self]

/-- Settles O6: the guard, then the byte's row in `Idle`. -/
theorem overflowAbandonsTheFrame : Obligations.OverflowAbandonsTheFrame := by
  intro s b hr hl
  rw [rxPush_of_full b hr hl]
  split <;> rfl

/-- Settles O7: the comparison of T1, inside a frame and outside. -/
theorem receiveTimeoutIsStrict : Obligations.ReceiveTimeoutIsStrict := by
  refine fun s e => ⟨fun hr => ⟨fun hle => ?_, fun hlt => ?_⟩, fun hr => ?_⟩
  · rw [rxTimeout, if_pos hr, if_neg (Nat.not_lt.2 hle)]
  · rw [rxTimeout, if_pos hr, if_pos hlt]
    rfl
  · rw [rxTimeout, if_neg (by rcases hr with h | h <;> simp [h])]

/-! ### Runs of pushes -/

/-- A step with an event to come is the effect of that event. -/
theorem step_of_event {s : State} {ev : Event} {rest : List Event} (hc : configOk s.cfg = true)
    (hin : s.env.inputs = ev :: rest) : step s = react ev (s.begin rest) := by
  simp only [step, stepState, hc, hin, if_true]

/-- A run that stops nowhere has a first step that does not stop (Host.Core.run). -/
theorem run_succ_inv {n : Nat} {s t : State} (h : Host.Core.run Sys2Proof.core (n + 1) s = .next t) :
    ∃ u, step s = .next u ∧ Host.Core.run Sys2Proof.core n u = .next t := by
  have gen : ∀ (M : Host.Core) (a b : M.State), Host.Core.run M (n + 1) a = .next b →
      ∃ u, M.step a = .next u ∧ Host.Core.run M n u = .next b := by
    intro M a b hab
    simp only [Host.Core.run] at hab
    split at hab
    · rename_i u hu
      exact ⟨u, hu, hab⟩
    · cases hab
    · cases hab
  exact gen Sys2Proof.core s t h

/-- A run after a run (Host.Core.run). -/
theorem run_add (m : Nat) : ∀ {n : Nat} {s t : State}, Host.Core.run Sys2Proof.core n s = .next t →
    Host.Core.run Sys2Proof.core (n + m) s = Host.Core.run Sys2Proof.core m t
  | 0, s, t, h => by
    cases h
    rw [Nat.zero_add]
  | n + 1, s, t, h => by
    obtain ⟨u, hu, hrun⟩ := run_succ_inv h
    rw [Nat.add_right_comm, run_next hu, run_add m hrun]

/-- A state in the course of a reception: only the receiver and the coming events have changed, and the last
step did nothing at the ports and absorbed nothing. -/
def State.receiving (s : State) (rx : Received) (rest : List Event) : State :=
  { s with rx := rx, env := { s.env with inputs := rest }, trace := ⟨[], []⟩ }

/-- A receiver inside a frame that has taken one more body byte (41_frame_receiver.md R144, R146, R147). -/
def Received.taken (rx : Received) (v : Byte) : Received :=
  { rx with state := .framing, buffer := rx.buffer.set rx.length v, length := rx.length + 1 }

@[simp] theorem Received.taken_length (rx : Received) (v : Byte) : (rx.taken v).length = rx.length + 1 := rfl
@[simp] theorem Received.taken_buffer (rx : Received) (v : Byte) :
    (rx.taken v).buffer = rx.buffer.set rx.length v := rfl

section
variable {s : State} {rx : Received} {rest : List Event}

/-- One `RX_PUSH` that absorbs nothing, as a step. -/
theorem step_push {rx' : Received} {b : Byte} (hc : configOk s.cfg = true)
    (h : rxPush b (s.receiving rx rest) = .next (s.receiving rx' rest)) :
    step (s.receiving rx (.rxPush b :: rest)) = .next (s.receiving rx' rest) :=
  (step_of_event (s := s.receiving rx (.rxPush b :: rest)) hc rfl).trans h

/-- The bytes that one body byte travels as are taken as that byte (30_encoding.md R91, R92). -/
theorem run_escapeByte (hc : configOk s.cfg = true) (b : Byte) (hr : rx.state = .framing)
    (hl : rx.length < s.cfg.rxCap) :
    Host.Core.run Sys2Proof.core (escapeByte b).length
        (s.receiving rx ((escapeByte b).map .rxPush ++ rest)) =
      .next (s.receiving (rx.taken b) rest) := by
  have escape (rest : List Event) : step (s.receiving rx (.rxPush 0xDB#8 :: rest)) =
      .next (s.receiving { rx with state := .escaping } rest) :=
    step_push hc (rxPush_of_framing (s := s.receiving rx rest) _ hr hl)
  by_cases hend : b = 0xC0#8
  · subst hend
    exact (run_next (escape _)).trans <| run_next <| step_push hc <|
      rxPush_of_escaping (s := s.receiving { rx with state := .escaping } rest) 0xDC#8 rfl hl
  by_cases hesc : b = 0xDB#8
  · subst hesc
    exact (run_next (escape _)).trans <| run_next <| step_push hc <|
      rxPush_of_escaping (s := s.receiving { rx with state := .escaping } rest) 0xDD#8 rfl hl
  · have he : escapeByte b = [b] := (if_neg hend).trans (if_neg hesc)
    have hpush : rxPush b (s.receiving rx rest) = .next (s.receiving (rx.taken b) rest) := by
      rw [rxPush_of_framing (s := s.receiving rx rest) b hr hl, if_neg hend, if_neg hesc]
      rfl
    rw [he]
    exact run_next (step_push hc hpush)

/-- So are the bytes that a whole body travels as, one body byte after another. -/
theorem run_escaped (hc : configOk s.cfg = true) : ∀ (body : List Byte) (rx : Received), rx.state = .framing →
    rx.length + body.length ≤ s.cfg.rxCap →
    Host.Core.run Sys2Proof.core (body.flatMap escapeByte).length
        (s.receiving rx ((body.flatMap escapeByte).map .rxPush ++ rest)) =
      .next (s.receiving (body.foldl Received.taken rx) rest)
  | [], _, _, _ => rfl
  | b :: body, rx, hr, hl => by
    simp only [List.length_cons] at hl
    rw [List.flatMap_cons, List.length_append, List.map_append, List.append_assoc,
      run_add _ (run_escapeByte hc b hr (by omega)), List.foldl_cons]
    exact run_escaped hc body (rx.taken b) rfl (by rw [rx.taken_length]; omega)

end

/-! ### The body of a received frame -/

theorem taken_foldl_length : ∀ (body : List Byte) (rx : Received),
    (body.foldl Received.taken rx).length = rx.length + body.length
  | [], _ => rfl
  | b :: body, rx => by
    rw [List.foldl_cons, taken_foldl_length body, rx.taken_length, List.length_cons]
    omega

theorem taken_foldl_state : ∀ (body : List Byte) {rx : Received}, rx.state = .framing →
    (body.foldl Received.taken rx).state = .framing
  | [], _, h => h
  | _ :: body, _, _ => taken_foldl_state body rfl

/-- The bytes taken stand behind those that were there, while the buffer has room. -/
theorem taken_foldl_body : ∀ (body : List Byte) (rx : Received),
    rx.length + body.length ≤ rx.buffer.length →
    (body.foldl Received.taken rx).buffer.take (rx.length + body.length) = rx.buffer.take rx.length ++ body
  | [], rx, _ => by simp
  | b :: body, rx, h => by
    simp only [List.length_cons] at h
    have ih := taken_foldl_body body (rx.taken b) (by simp; omega)
    have htake : (rx.taken b).buffer.take (rx.taken b).length = rx.buffer.take rx.length ++ [b] := by
      rw [rx.taken_buffer, rx.taken_length, List.take_add_one, List.getElem?_set_self (by omega),
        List.take_set_of_le (by omega)]
      rfl
    rw [htake, List.append_assoc, List.singleton_append] at ih
    rw [List.foldl_cons, ← ih, List.length_cons, rx.taken_length, Nat.add_right_comm, Nat.add_assoc]

/-- A receiver at the start of a frame (41_frame_receiver.md R142). -/
def Received.opened (rx : Received) : Received :=
  { rx with state := .framing, length := 0, timeoutCounter := 0 }

/-- The receiver that holds a completed body: opened, every byte taken, closed (41_frame_receiver.md
section 6). -/
def Received.holding (rx : Received) (body : List Byte) : Received :=
  { body.foldl Received.taken rx.opened with state := .complete }

theorem taken_foldl_opened_length (rx : Received) (body : List Byte) :
    (body.foldl Received.taken rx.opened).length = body.length :=
  (taken_foldl_length body _).trans (Nat.zero_add _)

theorem holding_length (rx : Received) (body : List Byte) : (rx.holding body).length = body.length :=
  taken_foldl_opened_length rx body

theorem holding_body {rx : Received} {body : List Byte} (h : body.length ≤ rx.buffer.length) :
    (rx.holding body).buffer.take (rx.holding body).length = body := by
  have hbuffer : (rx.holding body).buffer = (body.foldl Received.taken rx.opened).buffer := rfl
  rw [holding_length, hbuffer]
  simpa [Received.opened] using taken_foldl_body body rx.opened (by simpa [Received.opened] using h)

/-- Delimiter, escaped body, delimiter: the receiver holds the body (41_frame_receiver.md section 6). -/
theorem run_sendEvents {s : State} {body : List Byte} {rest : List Event} (hc : configOk s.cfg = true)
    (hr : s.rx.state = .idle) (h1 : 1 ≤ body.length) (h2 : body.length < s.cfg.rxCap)
    (hin : s.env.inputs = sendEvents body ++ rest) :
    Host.Core.run Sys2Proof.core (sendEvents body).length s =
      .next (s.receiving (s.rx.holding body) rest) := by
  have hopen : step s = .next
      (s.receiving s.rx.opened ((body.flatMap escapeByte).map .rxPush ++ (.rxPush 0xC0#8 :: rest))) := by
    have hin' : s.env.inputs =
        .rxPush 0xC0#8 :: ((body.flatMap escapeByte).map .rxPush ++ (.rxPush 0xC0#8 :: rest)) := by
      rw [hin, sendEvents, wireOf]
      simp [fendByte]
    exact (step_of_event hc hin').trans (rxPush_of_idle (s := s.begin _) 0xC0#8 hr)
  have hbody := run_escaped (rest := .rxPush 0xC0#8 :: rest) hc body s.rx.opened rfl
    (by simp only [Received.opened]; omega)
  have hclose : step (s.receiving (body.foldl Received.taken s.rx.opened) (.rxPush 0xC0#8 :: rest)) =
      .next (s.receiving (s.rx.holding body) rest) := by
    have hl := taken_foldl_opened_length s.rx body
    apply step_push hc
    rw [rxPush_of_framing 0xC0#8 (taken_foldl_state body rfl) (by simp only [State.receiving]; omega), if_pos rfl,
      delimiterInFrame_of_nonempty (by simp only [State.receiving]; omega)]
    rfl
  have hlen : (sendEvents body).length = (body.flatMap escapeByte).length + 1 + 1 := by
    simp [sendEvents, wireOf]
  rw [hlen, run_next hopen, run_add 1 hbody, run_next hclose]
  rfl

/-- Settles O57: what the run leaves is the state whose receiver holds the body. -/
theorem receiverRecoversTheBodyFromItsWireForm : Obligations.ReceiverRecoversTheBodyFromItsWireForm := by
  intro s body rest hc hr hbuf h1 h2 hin
  exact ⟨_, run_sendEvents hc hr h1 h2 hin, rfl, holding_length _ _, holding_body (by omega), rfl⟩

end Sys2Proof.Machine
end

section
/-! PROOFS. Dispatch (43_dispatch_and_reply.md sections 1 and 2): step T2 on a body that decodes and on one that
does not, the step that runs a received instruction, and the link from the host's encoder to its execution. -/

namespace Sys2Proof.Machine

/-! ### Step T2 (43_dispatch_and_reply.md R181) -/

section
variable {s : State}

theorem consume_of_decoded {i : Instr} (hr : s.rx.state = .complete)
    (hd : decode s.cfg .body s.rxBody = .ok i) :
    consume s = andThen (exec i s) fun s1 => .next s1.rxReset := by
  rw [consume, if_pos hr, hd]

theorem consume_of_rejected {r : Reject} (hr : s.rx.state = .complete)
    (hd : decode s.cfg .body s.rxBody = .error r) : consume s = .next (dropBody s).rxReset := by
  rw [consume, if_pos hr, hd]
  rfl

theorem consume_of_not_complete (hr : s.rx.state ≠ .complete) : consume s = .next s := if_neg hr

end

/-- A short body, or one whose CRC is not 0, is no request (43_dispatch_and_reply.md R182, R183). -/
theorem decode_body_rejects {c : Config} {body : List Byte}
    (h : body.length < 2 ∨ crc8 c.crcTable body ≠ 0#8) : ∃ r, decode c .body body = .error r := by
  by_cases hl : body.length < 2
  · exact ⟨.shortBody, if_pos hl⟩
  · exact ⟨.crcMismatch, (if_neg hl).trans (if_pos (h.resolve_left hl))⟩

/-- Settles O17: what is rejected is dropped, and the receiver cleared. -/
theorem shortAndCorruptBodiesAreDropped : Obligations.ShortAndCorruptBodiesAreDropped := by
  intro s hr hbody
  obtain ⟨r, hd⟩ := decode_body_rejects hbody
  exact consume_of_rejected hr hd

/-! ### The step that runs what was received -/

/-- A completed frame and a `TICK`: the request, the clear of the receiver, T3, T4 and T5. -/
theorem step_tick_of_decoded {s : State} {e : Half} {rest : List Event} {i : Instr}
    (hc : configOk s.cfg = true) (hin : s.env.inputs = .tick e :: rest) (hr : s.rx.state = .complete)
    (hd : decode s.cfg .body s.rxBody = .ok i) :
    step s =
      andThen (exec i (s.begin rest)) fun s1 =>
      andThen (exec .reply s1.rxReset) fun s2 => sampler e (watchdog e s2) := by
  have htimeout : rxTimeout e (s.begin rest) = s.begin rest := by
    obtain ⟨-, -, -, -, -, -, hcomplete, -⟩ := rxTimeout_frame e (s.begin rest)
    exact hcomplete hr
  have hconsume : consume (s.begin rest) = andThen (exec i (s.begin rest)) fun s1 => .next s1.rxReset :=
    consume_of_decoded (s := s.begin rest) hr hd
  rw [step_of_event hc hin, react, tick, htimeout, hconsume, andThen_assoc]
  rfl

theorem sampler_of_due {s : State} {e : Half} (hl : s.session.isLoggingEnabled = true)
    (hdue : s.session.logIntervalPeriod.toNat ≤ s.session.logIntervalCounter + e.toNat) :
    sampler e s = exec .telemetry (s.setIntervalCounter 0) := by
  rw [sampler, if_pos hl, if_pos hdue]

theorem step_of_idle {s : State} (hc : configOk s.cfg = true) (hin : s.env.inputs = []) :
    step s = .next (s.begin []) := by
  simp only [step, stepState, hc, hin, if_true]

theorem begin_of_idle {s : State} (hin : s.env.inputs = []) : s.begin [] = { s with trace := Trace.empty } := by
  obtain ⟨cfg, rx, tx, session, targets, ⟨inputs, memory, accessor, bypass, freeCount⟩, trace⟩ := s
  cases hin
  rfl

/-- Settles O16: the four forms of the step. -/
theorem stepRunsTheDecodedInstruction : Obligations.StepRunsTheDecodedInstruction := by
  refine fun s hc => ⟨fun e rest i hin hr hd => step_tick_of_decoded hc hin hr hd,
    fun b rest i hin hd => ?push, fun e hl hdue => sampler_of_due hl hdue, fun hin => ?idle⟩
  case push =>
    have hd' : decode (s.begin rest).cfg .wire [b] = .ok i := hd
    rw [step_of_event hc hin, react, rxPush, hd']
  case idle =>
    rw [step_of_idle hc hin, begin_of_idle hin]
    rfl

/-! ### The link as a whole -/

/-- A run of one step is that step, however it ends (Host.Core.run). -/
theorem run_one (s : State) : Host.Core.run Sys2Proof.core 1 s = step s := by
  have gen : ∀ (M : Host.Core) (a : M.State), Host.Core.run M 1 a = M.step a := by
    intro M a
    simp only [Host.Core.run]
    cases M.step a <;> rfl
  exact gen Sys2Proof.core s

/-- Settles O58: the pushes leave the encoded body in the receiver (O57), it decodes to the request (O13), and
the `TICK` runs it (O16). -/
theorem sentInstructionIsExecuted : Obligations.SentInstructionIsExecuted := by
  intro s i e rest hc hr hbuf hw hlayer hin
  obtain ⟨op, hop⟩ := opcode_of_layer_body hlayer
  simp only [Instr.wellFormed, Bool.and_eq_true, decide_eq_true_eq] at hw
  obtain ⟨hok, hfits⟩ := hw
  have hlen : (encode s.cfg i).length = (i.payload s.cfg).length + 2 := by
    rw [encode_of_opcode hop, encodeRequest, frameBody_length]
  have hpushes := run_sendEvents hc hr (body := encode s.cfg i) (by omega) (by omega) hin
  have hbody : (s.rx.holding (encode s.cfg i)).buffer.take (s.rx.holding (encode s.cfg i)).length =
      encode s.cfg i := holding_body (by omega)
  refine ⟨s.rx.holding (encode s.cfg i), ?_⟩
  rw [run_add 1 hpushes, run_one]
  exact step_tick_of_decoded (s := s.receiving _ _) hc rfl rfl
    ((congrArg _ hbody).trans (decode_encode_request hc hok hlayer))

end Sys2Proof.Machine
end

section
/-! PROOFS. The reads of a frame (20_memory.md sections 3, 5 and 6), and the two frames the block originates: the
reply (43_dispatch_and_reply.md section 4) and the sample (45_log_scheduler.md section 3). -/

namespace Sys2Proof.Machine

/-! ### The coming answers, one access later -/

section
variable {s : State} (p : PortEvent)

theorem comingAnswers_succ (n : Nat) (s : State) :
    comingAnswers (n + 1) s = accessorAnswer s :: comingAnswers n (afterAccess p s) := by
  have hhead : s.env.accessor[0]?.getD .memory = accessorAnswer s := by
    unfold accessorAnswer
    cases s.env.accessor <;> rfl
  simp [comingAnswers, List.range_succ_eq_map, afterAccess, hhead]

theorem noFault_zero (s : State) : noFault 0 s := by simp [noFault, comingAnswers]

theorem noFault_succ {n : Nat} :
    noFault (n + 1) s ↔ accessorAnswer s ≠ .fault ∧ noFault n (afterAccess p s) := by
  simp only [noFault, comingAnswers_succ p, List.forall_mem_cons]

theorem noFault_one : noFault 1 s ↔ accessorAnswer s ≠ .fault :=
  (noFault_succ (.pulled none)).trans (and_iff_left (noFault_zero _))

theorem firstFaultAt_zero : firstFaultAt 0 s ↔ accessorAnswer s = .fault := by
  rw [firstFaultAt, and_iff_right (noFault_zero s), accessorAnswer]
  cases s.env.accessor <;> simp

theorem firstFaultAt_succ {k : Nat} :
    firstFaultAt (k + 1) s ↔ accessorAnswer s ≠ .fault ∧ firstFaultAt k (afterAccess p s) := by
  have htail : s.env.accessor[k + 1]? = (afterAccess p s).env.accessor[k]? := by
    simp [afterAccess]
  rw [firstFaultAt, firstFaultAt, noFault_succ p, htail, and_assoc]

/-- A read faults exactly at the answer `Fault` (20_memory.md R63). -/
theorem memReadResult_eq_none {a : Addr} {w : Width} : memReadResult a w s = none ↔ accessorAnswer s = .fault := by
  unfold memReadResult
  cases accessorAnswer s <;> simp [readAnswer]

/-- The bytes of the first read, then those of the others one access later. -/
theorem oracleBytes_cons (a : Addr) (w : Width) (rest : List (Addr × Width)) :
    oracleBytes ((a, w) :: rest) s = (memReadResult a w s).getD [] ++ oracleBytes rest (afterAccess p s) := by
  rw [oracleBytes, List.length_cons, comingAnswers_succ p]
  rfl

theorem oraclePorts_cons (a : Addr) (w : Width) (rest : List (Addr × Width)) :
    oraclePorts ((a, w) :: rest) s =
      .memRead a w (memReadResult a w s) :: oraclePorts rest (afterAccess p s) := by
  rw [oraclePorts, List.length_cons, comingAnswers_succ p]
  rfl

end

/-! ### The reads of a frame -/

/-- A state after reads: their answers are used up and their transactions recorded. -/
def State.afterReads (n : Nat) (ports : List PortEvent) (s : State) : State :=
  { s with
    env := { s.env with accessor := s.env.accessor.drop n }
    trace := { s.trace with ports := s.trace.ports ++ ports } }

theorem afterReads_afterAccess (n : Nat) (ports : List PortEvent) (p : PortEvent) (s : State) :
    (afterAccess p s).afterReads n ports = s.afterReads (n + 1) (p :: ports) := by
  simp [State.afterReads, afterAccess, State.record]

theorem afterReads_zero (s : State) : s.afterReads 0 [] = s := by simp [State.afterReads]

section
variable {a : Addr} {w : Width} {rest : List (Addr × Width)} {s : State}

/-- A first read that faults ends the reads (20_memory.md R69). -/
theorem readAll_of_fault (h : accessorAnswer s = .fault) :
    readAll ((a, w) :: rest) s = (none, afterAccess (.memRead a w (memReadResult a w s)) s) := by
  rw [readAll, memRead, memReadResult_eq_none.2 h]

/-- A first read that is answered, and then the others. -/
theorem readAll_of_answer (h : accessorAnswer s ≠ .fault) :
    readAll ((a, w) :: rest) s =
      ((readAll rest (afterAccess (.memRead a w (memReadResult a w s)) s)).1.map
          ((memReadResult a w s).getD [] ++ ·),
        (readAll rest (afterAccess (.memRead a w (memReadResult a w s)) s)).2) := by
  obtain ⟨bs, hbs⟩ : ∃ bs, memReadResult a w s = some bs :=
    Option.ne_none_iff_exists'.1 (mt memReadResult_eq_none.1 h)
  rw [readAll, memRead, hbs]
  simp only []
  obtain ⟨tl, s2⟩ := readAll rest (afterAccess (.memRead a w (some bs)) s)
  cases tl <;> rfl

end

/-- Reads that are all answered (20_memory.md R66). -/
theorem readAll_of_noFault : ∀ (reads : List (Addr × Width)) {s : State}, noFault reads.length s →
    readAll reads s = (some (oracleBytes reads s), s.afterReads reads.length (oraclePorts reads s))
  | [], s, _ => congrArg (Prod.mk _) (afterReads_zero s).symm
  | (a, w) :: rest, s, h => by
    obtain ⟨hanswer, hrest⟩ := (noFault_succ (.memRead a w (memReadResult a w s))).1 h
    rw [readAll_of_answer hanswer, readAll_of_noFault rest hrest, afterReads_afterAccess, ← oraclePorts_cons,
      Option.map_some, ← oracleBytes_cons]
    rfl

/-- Reads of which one is answered with `Fault`: it is the last one made (20_memory.md R69). -/
theorem readAll_of_firstFaultAt : ∀ (reads : List (Addr × Width)) {k : Nat} {s : State}, k < reads.length →
    firstFaultAt k s →
    readAll reads s = (none, s.afterReads (k + 1) (oraclePorts (reads.take (k + 1)) s))
  | [], _, _, hk, _ => absurd hk (Nat.not_lt_zero _)
  | (a, w) :: rest, 0, s, _, h => by
    rw [readAll_of_fault (firstFaultAt_zero.1 h), List.take_succ_cons, oraclePorts_cons (.pulled none),
      ← afterReads_afterAccess]
    exact congrArg (Prod.mk _) (afterReads_zero _).symm
  | (a, w) :: rest, k + 1, s, hk, h => by
    obtain ⟨hanswer, hrest⟩ := (firstFaultAt_succ (.memRead a w (memReadResult a w s))).1 h
    rw [readAll_of_answer hanswer, readAll_of_firstFaultAt rest (Nat.lt_of_succ_lt_succ hk) hrest,
      afterReads_afterAccess, ← oraclePorts_cons]
    rfl

/-- Settles O32: by induction on the reads. -/
theorem readsAreMadeOnceInOrder : Obligations.ReadsAreMadeOnceInOrder :=
  fun reads _ => ⟨readAll_of_noFault reads, fun _ hk hf => readAll_of_firstFaultAt reads hk hf⟩

/-! ### Reading and loading a frame -/

section
variable {reads : List (Addr × Width)} {s : State}

theorem readAndLoad_of_noFault (h : noFault reads.length s) :
    readAndLoad reads s = loadFrame (oracleBytes reads s) (s.afterReads reads.length (oraclePorts reads s)) := by
  rw [readAndLoad, readAll_of_noFault reads h]

theorem readAndLoad_of_firstFaultAt {k : Nat} (hk : k < reads.length) (h : firstFaultAt k s) :
    readAndLoad reads s = (s.afterReads (k + 1) (oraclePorts (reads.take (k + 1)) s)).absorb .access := by
  rw [readAndLoad, readAll_of_firstFaultAt reads hk h]

/-- The payload of a frame is as long as its reads are wide. -/
theorem oracleBytes_length (h : noFault reads.length s) :
    (oracleBytes reads s).length = (reads.map fun r => r.2.bytes).sum :=
  readAll_length reads (readAll_of_noFault reads h)

end

/-- The reads of a block are one byte each (20_memory.md R66). -/
theorem blockReads_width (c : Config) (b : Block) :
    ((blockReads c b).map fun r => r.2.bytes).sum = b.length.toNat := by
  simp [blockReads, Function.comp_def, Width.bytes]

theorem blockReads_length (c : Config) (b : Block) : (blockReads c b).length = b.length.toNat := by
  simp [blockReads]

/-- The reads of a sample are as wide as its targets (20_memory.md R66). -/
theorem sampleReads_width (t : LogTargets) :
    ((sampleReads t).map fun r => r.2.bytes).sum = sizeSum t.entries t.committedCount := by
  simp [sampleReads, sizeSum, Function.comp_def]

/-! ### The reply (43_dispatch_and_reply.md R192 to R195) -/

section
variable {s : State}

theorem exec_reply_of_pending (hp : s.session.isReplyPending = true) (hidle : s.tx.state = .idle) :
    exec .reply s =
      .next (readAndLoad (blockReads s.cfg s.session.pendingBlock) (s.setReplyPending false)) :=
  congrArg Host.Outcome.next (if_pos ⟨hp, hidle⟩)

theorem exec_reply_of_not_pending (h : s.session.isReplyPending = false ∨ s.tx.state ≠ .idle) :
    exec .reply s = .next s := by
  refine congrArg Host.Outcome.next (if_neg fun hc => ?_)
  rcases h with h | h
  · exact Bool.false_ne_true (h.symm.trans hc.1)
  · exact h hc.2

/-! ### The sample (45_log_scheduler.md R244 to R247) -/

/-- 45_log_scheduler.md R244 (a) to (d). -/
theorem sampleAllowed_iff :
    sampleAllowed s = true ↔ s.session.isReplyPending = false ∧ s.tx.state = .idle ∧
      0 < s.targets.committedCount ∧ sizeSum s.targets.entries s.targets.committedCount ≤ s.cfg.maxPayload := by
  simp only [sampleAllowed, Bool.and_eq_true, Bool.not_eq_true', decide_eq_true_eq, and_assoc]

theorem exec_telemetry_of_allowed (h : sampleAllowed s = true) :
    exec .telemetry s = .next (readAndLoad (sampleReads s.targets) s) :=
  congrArg Host.Outcome.next (if_pos h)

theorem exec_telemetry_of_not_allowed (h : ¬ sampleAllowed s = true) : exec .telemetry s = .next s :=
  congrArg Host.Outcome.next (if_neg h)

end

/-- Settles O33: T3 on a pending reply is `readAndLoad` of the block. -/
theorem replyLoadsThePendingBlock : Obligations.ReplyLoadsThePendingBlock := by
  refine fun s => ⟨?_, exec_reply_of_not_pending⟩
  rintro _ _ rfl rfl hp hidle hf
  have hlen := (oracleBytes_length hf).trans (blockReads_width s.cfg s.session.pendingBlock)
  refine ⟨hlen, _, (exec_reply_of_pending hp hidle).trans
    (congrArg _ (readAndLoad_of_noFault (s := s.setReplyPending false) hf)), ?_⟩
  obtain ⟨hstate, hcursor, hend, hbuffer⟩ := loadFrame_tx
    (oracleBytes (blockReads s.cfg s.session.pendingBlock) (s.setReplyPending false))
    ((s.setReplyPending false).afterReads (blockReads s.cfg s.session.pendingBlock).length
      (oraclePorts (blockReads s.cfg s.session.pendingBlock) (s.setReplyPending false)))
  exact ⟨rfl, hstate, hcursor, hend, hbuffer, rfl, rfl, rfl, rfl, rfl⟩

/-- Settles O34: an allowed sample is `readAndLoad` of the committed targets. -/
theorem telemetryLoadsTheCommittedTargets : Obligations.TelemetryLoadsTheCommittedTargets := by
  refine fun s => ⟨?_, fun h => exec_telemetry_of_not_allowed fun ha => ?_⟩
  · rintro _ _ rfl rfl hp hidle hpos hsize hf
    have hlen := (oracleBytes_length hf).trans (sampleReads_width s.targets)
    refine ⟨hlen, _, (exec_telemetry_of_allowed (sampleAllowed_iff.2 ⟨hp, hidle, hpos, hsize⟩)).trans
      (congrArg _ (readAndLoad_of_noFault hf)), ?_⟩
    obtain ⟨hstate, hcursor, hend, hbuffer⟩ := loadFrame_tx (oracleBytes (sampleReads s.targets) s)
      (s.afterReads (sampleReads s.targets).length (oraclePorts (sampleReads s.targets) s))
    exact ⟨rfl, hstate, hcursor, hend, hbuffer, rfl, rfl, rfl, rfl, rfl⟩
  · obtain ⟨hp, hidle, hpos, hsize⟩ := sampleAllowed_iff.1 ha
    rcases h with h | h | h | h
    · exact Bool.false_ne_true (hp.symm.trans h)
    · exact h hidle
    · omega
    · omega

/-- Settles O35: `readAndLoad` up to the first `Fault`, of the block and of the committed targets. -/
theorem readFaultAbandonsTheFrame : Obligations.ReadFaultAbandonsTheFrame := by
  intro s k hidle hf
  refine ⟨fun hp hk => ?reply, fun hp hk hsize => ?sample⟩
  case reply =>
    exact (exec_reply_of_pending hp hidle).trans (congrArg _
      (readAndLoad_of_firstFaultAt (s := s.setReplyPending false) (by rwa [blockReads_length]) hf))
  case sample =>
    have hpos : 0 < s.targets.committedCount := by
      rw [List.length_take] at hk
      omega
    exact (exec_telemetry_of_allowed (sampleAllowed_iff.2 ⟨hp, hidle, hpos, hsize⟩)).trans (congrArg _
      (readAndLoad_of_firstFaultAt (by simpa [sampleReads] using hk) hf))

end Sys2Proof.Machine
end

section
/-! PROOFS. The commands (44_commands.md), one by one: what each comes to, by the answer of its handler. -/

namespace Sys2Proof.Machine

/-! ### A command behind the gate, by the answer of its handler (43_dispatch_and_reply.md R187 to R190) -/

section
variable {m : Nibble} {h : Handler} {s u : State}

theorem privileged_success (ha : s.session.isAuthenticated = true)
    (hr : h (s.setPending emptyBlock) = (.success, u)) :
    privileged m h s = (u.accept m).setReplyPending true :=
  (privileged_authenticated ha).trans (runHandler_success hr)

theorem privileged_successNoReply (ha : s.session.isAuthenticated = true)
    (hr : h (s.setPending emptyBlock) = (.successNoReply, u)) : privileged m h s = u.accept m :=
  (privileged_authenticated ha).trans (runHandler_successNoReply hr)

theorem privileged_error {cls : ErrorClass} (ha : s.session.isAuthenticated = true)
    (hr : h (s.setPending emptyBlock) = (.error cls, u)) : privileged m h s = u.absorb cls :=
  (privileged_authenticated ha).trans (runHandler_error hr)

end

/-! ### LOGSTART, LOGSTOP, LOGPERIOD (44_commands.md R210 to R212) -/

section
variable (s : State)

theorem handleLogstart_of_payload {p : List Byte} (hp : p ≠ []) : handleLogstart p s = (.error .validation, s) :=
  if_pos (mt List.length_eq_zero_iff.1 hp)

theorem handleLogstart_nil :
    handleLogstart [] s =
      if s.session.isLoggingEnabled then (.successNoReply, s)
      else (.success, { s with session.isLoggingEnabled := true, session.logIntervalCounter := 0 }) := rfl

theorem handleLogperiod_of_zero : handleLogperiod (.fields 0#16) s = (.error .validation, s) := rfl

theorem handleLogperiod_of_pos {period : Half} (h : period ≠ 0#16) :
    handleLogperiod (.fields period) s =
      (.success, { s with session.logIntervalPeriod := period, session.isLoggingEnabled := false }) :=
  if_neg h

end

/-- Settles O21: the payload, then the logging flag. -/
theorem logstartStartsLoggingOnce : Obligations.LogstartStartsLoggingOnce := by
  refine fun m p s ha => ⟨fun hp => ?refused, fun hp hl => ?again, fun hp hl => ?start⟩
  case refused => exact congrArg _ (privileged_error ha (handleLogstart_of_payload _ hp))
  case again =>
    subst hp
    exact congrArg _ (privileged_successNoReply ha ((handleLogstart_nil _).trans (if_pos hl)))
  case start =>
    subst hp
    exact congrArg _ (privileged_success ha ((handleLogstart_nil _).trans (if_neg (by simp [hl]))))

/-- Settles O22: its handler has one answer. -/
theorem logstopStopsLoggingUnconditionally : Obligations.LogstopStopsLoggingUnconditionally :=
  fun _ _ _ ha => congrArg _ (privileged_success (h := handleLogstop) ha rfl)

/-- Settles O23: a period, the period 0, and a wrong length. -/
theorem logperiodSetsThePeriodAndStopsLogging : Obligations.LogperiodSetsThePeriodAndStopsLogging := by
  refine fun m s ha => ⟨fun period hp => ?accepted, fun ops hops => ?refused⟩
  case accepted => exact congrArg _ (privileged_success ha (handleLogperiod_of_pos _ hp))
  case refused =>
    rcases hops with rfl | ⟨p, rfl⟩
    · exact congrArg _ (privileged_error ha (handleLogperiod_of_zero _))
    · exact congrArg _ (privileged_error (h := handleLogperiod (.badLength p)) ha rfl)

/-! ### WRITE (44_commands.md R213) -/

section
variable {f : WriteFields} {s : State}

theorem handleWrite_of_mismatch (hf : f.sizeByte.toNat ≠ f.width.bytes) :
    handleWrite (.fields f) s = (.error .validation, s) := if_pos hf

/-- A WRITE whose access is answered with `Fault` (20_memory.md R64). -/
theorem handleWrite_of_fault (hf : f.sizeByte.toNat = f.width.bytes) (ha : accessorAnswer s = .fault) :
    handleWrite (.fields f) s =
      (.error .access, afterAccess (.memWrite f.address f.width f.data false) s) := by
  have hw : memWriteOk s = false := by simp [memWriteOk, ha]
  rw [handleWrite, if_neg (not_not.2 hf), memWrite, hw]
  rfl

/-- A WRITE whose access is answered otherwise (20_memory.md R64). -/
theorem handleWrite_of_answer (hf : f.sizeByte.toNat = f.width.bytes) (ha : accessorAnswer s ≠ .fault) :
    handleWrite (.fields f) s =
      (if s.session.isLoggingEnabled then .successNoReply else .success,
        afterAccess (.memWrite f.address f.width f.data true)
          { s with env.memory := memPutBytes s.cfg f.address 0 f.data s.env.memory }) := by
  have hw : memWriteOk s = true := by simp [memWriteOk, ha]
  rw [handleWrite, if_neg (not_not.2 hf), memWrite, hw]
  rfl

end

/-- Settles O24: refused before the access, faulted, or stored; logging decides about the reply. -/
theorem writeMakesOneAccess : Obligations.WriteMakesOneAccess := by
  refine fun m s ha => ⟨fun f hf hans => ?stored, fun f hf hans => ?fault, fun ops hops => ?refused⟩
  case stored =>
    have hr := handleWrite_of_answer (s := s.setPending emptyBlock) hf (noFault_one.1 hans)
    cases hl : s.session.isLoggingEnabled
    · have hl' : (s.setPending emptyBlock).session.isLoggingEnabled = false := hl
      rw [hl'] at hr
      exact congrArg _ (privileged_success ha hr)
    · have hl' : (s.setPending emptyBlock).session.isLoggingEnabled = true := hl
      rw [hl'] at hr
      exact congrArg _ (privileged_successNoReply ha hr)
  case fault =>
    exact congrArg _ (privileged_error ha (handleWrite_of_fault hf (firstFaultAt_zero.1 hans)))
  case refused =>
    rcases hops with ⟨p, rfl⟩ | ⟨f, rfl, hf⟩
    · exact congrArg _ (privileged_error (h := handleWrite (.badLength p)) ha rfl)
    · exact congrArg _ (privileged_error ha (handleWrite_of_mismatch hf))

/-- Settles O25: the bytes of the one access are fewer than the address space. -/
theorem writtenBytesReadBackInWireOrder : Obligations.WrittenBytesReadBackInWireOrder := by
  intro m f s t ha hf hdata hwf hans hexec
  have hmem : t.env.memory = memPutBytes s.cfg f.address 0 f.data s.env.memory := by
    obtain ⟨hstored, -, -⟩ := writeMakesOneAccess m s ha
    cases (hstored f hf hans).symm.trans hexec
    rfl
  have hfits : 0 + f.data.length ≤ 2 ^ (8 * s.cfg.addrW.bytes) := by
    have h8 := Width.bytes_le f.width
    have hspace : 8 ≤ 2 ^ (8 * s.cfg.addrW.bytes) := by cases s.cfg.addrW <;> decide
    omega
  have hread : ∀ k b, f.data[k]? = some b → memGet t.env.memory (wrapAddr s.cfg f.address k).toNat = b := by
    intro k b hk
    have hk' := memGet_memPutBytes_inside s.cfg f.address f.data 0 hwf hfits k b hk
    rwa [Nat.zero_add, ← hmem] at hk'
  refine ⟨List.ext_getElem? fun k => ?_, fun k b hk => ?_⟩
  · rw [memGetBytes, List.getElem?_map]
    rcases Nat.lt_or_ge k f.data.length with hlt | hge
    · rw [List.getElem?_range (by omega), List.getElem?_eq_getElem hlt, Option.map_some,
        hread k _ (List.getElem?_eq_getElem hlt)]
    · rw [List.getElem?_eq_none (by simp; omega), List.getElem?_eq_none hge]
      rfl
  · rw [← wrapAddr_toNat]
    exact hread k b hk

/-! ### LOGCFG (44_commands.md R220 to R222) -/

/-- The start flag decides from where the entries are staged. -/
theorem handleLogcfg_fields (f : CfgFields) (s : State) :
    handleLogcfg (.fields f) s =
      appendEntries f (s.setStaged (if f.flags.getLsbD 4 then 0 else s.targets.stagedCount)) := by
  rw [handleLogcfg, cfgStart]
  split <;> rfl

theorem finishCfg_eq (flags : Byte) (s : State) :
    finishCfg flags s =
      { s with
        session.isLoggingEnabled := false
        targets.committedCount :=
          if flags.getLsbD 5 then s.targets.stagedCount else s.targets.committedCount } := by
  rw [finishCfg, cfgEnd]
  split <;> rfl

/-- The array with entries of legal sizes stored from an index on. -/
def storedEntries (ts : List Target) (base : Nat) (es : List CfgEntry) (sizes : List Width) : List Target :=
  ts.take base ++ List.zipWith (fun e w => (⟨e.address, w⟩ : Target)) es sizes ++ ts.drop (base + es.length)

/-- The sum of the sizes with new entries is the staged sum and that of the new sizes. -/
theorem sizeSum_storedEntries {ts : List Target} {base : Nat} {es : List CfgEntry} {sizes : List Width}
    (hfits : base ≤ ts.length) (hlen : es.length = sizes.length) :
    sizeSum (storedEntries ts base es sizes) (base + es.length) =
      sizeSum ts base + (sizes.map Width.bytes).sum := by
  have hbytes : (List.zipWith (fun e w => (⟨e.address, w⟩ : Target)) es sizes).map (fun t => t.size.bytes) =
      sizes.map Width.bytes := by
    rw [← List.map_uncurry_zip_eq_zipWith, List.map_map]
    conv_rhs => rw [← List.map_snd_zip (l₁ := es) (Nat.le_of_eq hlen.symm), List.map_map]
    rfl
  have hprefix : (ts.take base ++ List.zipWith (fun e w => (⟨e.address, w⟩ : Target)) es sizes).length =
      base + es.length := by
    simp
    omega
  rw [sizeSum, storedEntries, List.take_left' hprefix, List.map_append, List.sum_append, hbytes, sizeSum]

section
variable {f : CfgFields} {s : State}

theorem appendEntries_of_too_many (h : s.cfg.nTargets < s.targets.stagedCount + f.entries.length) :
    appendEntries f s = discardTargets s := if_pos h

/-- The loop of LOGCFG on a state: the array it leaves, and whether all entries were stored. -/
def storing (f : CfgFields) (s : State) : List Target × Bool :=
  storeEntries s.cfg s.targets.stagedCount f.entries s.targets.entries

/-- Entries that fit the table: the loop's answer, and then the sum of the sizes, decide (44_commands.md R220,
R221). -/
theorem appendEntries_of_fits (hfits : s.targets.stagedCount + f.entries.length ≤ s.cfg.nTargets) :
    appendEntries f s =
      if (storing f s).2 = false then discardTargets { s with targets.entries := (storing f s).1 }
      else if s.cfg.maxPayload < sizeSum (storing f s).1 (s.targets.stagedCount + f.entries.length) then
        discardTargets { s with
          targets := ⟨(storing f s).1, s.targets.committedCount, s.targets.stagedCount + f.entries.length⟩ }
      else
        (.success, finishCfg f.flags { s with
          targets := ⟨(storing f s).1, s.targets.committedCount, s.targets.stagedCount + f.entries.length⟩ }) := by
  rw [appendEntries, if_neg (Nat.not_lt.2 hfits), storing]
  obtain ⟨array, stored⟩ := storeEntries s.cfg s.targets.stagedCount f.entries s.targets.entries
  cases stored <;> rfl

section
variable (hfits : s.targets.stagedCount + f.entries.length ≤ s.cfg.nTargets)
include hfits

/-- A size byte outside `SIZES` discards the configuration (44_commands.md R221 (c)). -/
theorem appendEntries_of_unstored (h : (storing f s).2 = false) :
    appendEntries f s = discardTargets { s with targets.entries := (storing f s).1 } :=
  (appendEntries_of_fits hfits).trans (if_pos h)

/-- A total above `MAX_PAYLOAD` discards it too (44_commands.md R221 (d)). -/
theorem appendEntries_of_too_long (h : (storing f s).2 = true)
    (hsum : s.cfg.maxPayload < sizeSum (storing f s).1 (s.targets.stagedCount + f.entries.length)) :
    appendEntries f s = discardTargets { s with
      targets := ⟨(storing f s).1, s.targets.committedCount, s.targets.stagedCount + f.entries.length⟩ } :=
  (appendEntries_of_fits hfits).trans ((if_neg (by simp [h])).trans (if_pos hsum))

/-- Within both bounds the entries are staged, and committed with the end flag (44_commands.md R220). -/
theorem appendEntries_of_within (h : (storing f s).2 = true)
    (hsum : sizeSum (storing f s).1 (s.targets.stagedCount + f.entries.length) ≤ s.cfg.maxPayload) :
    appendEntries f s =
      (.success, finishCfg f.flags { s with
        targets := ⟨(storing f s).1, s.targets.committedCount, s.targets.stagedCount + f.entries.length⟩ }) :=
  (appendEntries_of_fits hfits).trans ((if_neg (by simp [h])).trans (if_neg (Nat.not_lt.2 hsum)))

/-- Entries of legal sizes are all stored. -/
theorem storing_of_sizes {sizes : List Width} (htable : s.targets.entries.length = s.cfg.nTargets)
    (hsizes : (f.entries.map fun e => widthOfByte s.cfg e.sizeByte) = sizes.map some) :
    storing f s = (storedEntries s.targets.entries s.targets.stagedCount f.entries sizes, true) :=
  storeEntries_all s.cfg f.entries sizes _ _ hsizes (by omega)

end

/-- The three causes of an Error that are not the length (44_commands.md R221 (b) to (d)). -/
theorem appendEntries_discards (htable : s.targets.entries.length = s.cfg.nTargets)
    (hcause : s.cfg.nTargets < s.targets.stagedCount + f.entries.length ∨
      (∃ e ∈ f.entries, widthOfByte s.cfg e.sizeByte = none) ∨
      ∃ sizes : List Width, (f.entries.map fun e => widthOfByte s.cfg e.sizeByte) = sizes.map some ∧
        s.cfg.maxPayload <
          sizeSum s.targets.entries s.targets.stagedCount + (sizes.map Width.bytes).sum) :
    ∃ ts : LogTargets, appendEntries f s = discardTargets { s with targets := ts } := by
  by_cases hmany : s.cfg.nTargets < s.targets.stagedCount + f.entries.length
  · exact ⟨s.targets, appendEntries_of_too_many hmany⟩
  have hfits := Nat.not_lt.1 hmany
  rcases hcause with h | hbad | ⟨sizes, hsizes, hsum⟩
  · exact absurd h hmany
  · exact ⟨_, appendEntries_of_unstored hfits (storeEntries_bad _ _ _ _ hbad)⟩
  · have hlen : f.entries.length = sizes.length := by simpa using congrArg List.length hsizes
    have hstoring := storing_of_sizes hfits htable hsizes
    rw [← sizeSum_storedEntries (by omega) hlen] at hsum
    exact ⟨_, appendEntries_of_too_long hfits (by rw [hstoring]) (by rw [hstoring]; exact hsum)⟩

end

/-- Settles O26: the entries are stored, and neither bound is exceeded. -/
theorem logcfgStagesAndCommits : Obligations.LogcfgStagesAndCommits := by
  intro m f sizes s ha htable hsizes base total stored hfits hsum
  have hstoring : storing f ((s.setPending emptyBlock).setStaged base) = (stored, true) :=
    storing_of_sizes (s := (s.setPending emptyBlock).setStaged base) hfits htable hsizes
  have hr := (handleLogcfg_fields f (s.setPending emptyBlock)).trans
    (appendEntries_of_within (s := (s.setPending emptyBlock).setStaged base) hfits (by rw [hstoring])
      (by rw [hstoring]; exact hsum))
  rw [hstoring, finishCfg_eq] at hr
  exact congrArg _ (privileged_success ha hr)

/-- A discarded configuration, as a whole request (44_commands.md R221). -/
theorem exec_logcfg_of_discard {m : Nibble} {ops : Operands CfgFields} {s : State} {ts : LogTargets}
    (ha : s.session.isAuthenticated = true)
    (hr : handleLogcfg ops (s.setPending emptyBlock) =
      discardTargets { s.setPending emptyBlock with targets := ts }) :
    exec (.logcfg m ops) s =
      .next { s with
        session := { s.session with pendingBlock := ⟨0#32, 0#16⟩ }
        targets := ⟨ts.entries, 0, 0⟩
        trace := { s.trace with absorbed := s.trace.absorbed ++ [.validation] } } :=
  congrArg _ (privileged_error ha hr)

/-- Settles O27: each cause discards the configuration. -/
theorem logcfgErrorsDiscardTheConfiguration : Obligations.LogcfgErrorsDiscardTheConfiguration := by
  intro m ops s ha htable hcause
  rcases hcause with ⟨p, rfl⟩ | ⟨f, base, rfl, rfl, hcause⟩
  · exact ⟨_, exec_logcfg_of_discard (ts := s.targets) ha rfl⟩
  · obtain ⟨ts, hr⟩ := appendEntries_discards
      (s := (s.setPending emptyBlock).setStaged (if f.flags.getLsbD 4 then 0 else s.targets.stagedCount))
      htable hcause
    exact ⟨_, exec_logcfg_of_discard ha ((handleLogcfg_fields f _).trans hr)⟩

/-! ### AUTH, DUMP and BYPASS (44_commands.md R215, R223, R225, R226) -/

section
variable {s : State}

theorem handleAuth_of_key :
    handleAuth (.fields s.session.passkey) s =
      (.success, { s with session := { s.session with
        isAuthenticated := true
        isLoggingEnabled := false
        pendingBlock := capBlock s.cfg s.session.versionInfo.address s.session.versionInfo.length } }) :=
  if_neg (not_not.2 rfl)

theorem handleAuth_of_wrong_key {key : Word} (h : key ≠ s.session.passkey) :
    handleAuth (.fields key) s = (.error .auth, s.setAuthenticated false) := if_pos h

theorem handleDump_of_legal {f : DumpFields} (h : f.length.toNat ≤ s.cfg.maxPayload) :
    handleDump (.fields f) s =
      (.success, { s with session := { s.session with
        isLoggingEnabled := false, pendingBlock := ⟨f.address, f.length⟩ } }) :=
  if_neg (Nat.not_lt.2 h)

theorem handleDump_of_too_long {f : DumpFields} (h : s.cfg.maxPayload < f.length.toNat) :
    handleDump (.fields f) s = (.error .validation, s) := if_pos h

end

/-- Settles O28: AUTH, which no gate stands before, by its key. -/
theorem authSetsTheLevelByTheKey : Obligations.AuthSetsTheLevelByTheKey := by
  refine fun m s => ⟨?right, fun key hkey => ?wrong, fun p => ?length⟩
  case right => exact congrArg _ (runHandler_success (s := s) (handleAuth_of_key (s := s.setPending emptyBlock)))
  case wrong => exact congrArg _ (runHandler_error (handleAuth_of_wrong_key hkey))
  case length => exact congrArg Host.Outcome.next (runHandler_error (h := handleAuth (.badLength p)) rfl)

/-- Settles O29: the length of the region against `MAX_PAYLOAD`. -/
theorem dumpNamesTheRegion : Obligations.DumpNamesTheRegion := by
  refine fun m s ha => ⟨fun f hf => ?accepted, fun ops hops => ?refused⟩
  case accepted => exact congrArg _ (privileged_success ha (handleDump_of_legal hf))
  case refused =>
    rcases hops with ⟨p, rfl⟩ | ⟨f, rfl, hf⟩
    · exact congrArg _ (privileged_error (h := handleDump (.badLength p)) ha rfl)
    · exact congrArg _ (privileged_error ha (handleDump_of_too_long hf))

/-- A registered capability that answers Success: one call, its reply named (44_commands.md R225). -/
theorem handleBypass_of_success {p : List Byte} {s : State} (hb : s.cfg.bypass = true)
    (hok : (bypassAnswer p s).success = true) :
    handleBypass p s =
      (.success, { s with
        session := { s.session with
          isLoggingEnabled := false
          pendingBlock :=
            capBlock s.cfg (wrapAddr s.cfg (bypassAnswer p s).address 0) (bypassAnswer p s).length }
        env := { s.env with
          memory := memPutCells s.cfg (bypassAnswer p s).stores s.env.memory
          bypass := s.env.bypass.tail
          freeCount := s.env.freeCount + 1 }
        trace := { s.trace with ports := s.trace.ports ++ [.bypassCall p (bypassAnswer p s)] } }) :=
  (if_pos hb).trans (if_pos hok)

/-- A registered capability that answers Error: one call, no reply named (44_commands.md R226). -/
theorem handleBypass_of_error {p : List Byte} {s : State} (hb : s.cfg.bypass = true)
    (hok : (bypassAnswer p s).success = false) :
    handleBypass p s =
      (.error .validation, { s with
        session := { s.session with isLoggingEnabled := false }
        env := { s.env with
          memory := memPutCells s.cfg (bypassAnswer p s).stores s.env.memory
          bypass := s.env.bypass.tail
          freeCount := s.env.freeCount + 1 }
        trace := { s.trace with ports := s.trace.ports ++ [.bypassCall p (bypassAnswer p s)] } }) :=
  (if_pos hb).trans (if_neg fun h => Bool.false_ne_true (hok.symm.trans h))

theorem handleBypass_of_none {p : List Byte} {s : State} (hb : s.cfg.bypass = false) :
    handleBypass p s = (.error .validation, s.setLogging false) :=
  if_neg fun h => Bool.false_ne_true (hb.symm.trans h)

/-- Settles O30: no capability, or its answer. -/
theorem bypassMirrorsTheCapability : Obligations.BypassMirrorsTheCapability := by
  refine fun m p s ha => ⟨fun hb => ?none, fun answer hb hans hok => ?success, fun answer hb hans hok => ?error⟩
  case none => exact congrArg _ (privileged_error ha (handleBypass_of_none hb))
  case success =>
    subst hans
    exact congrArg _ (privileged_success ha (handleBypass_of_success (s := s.setPending emptyBlock) hb hok))
  case error =>
    subst hans
    exact congrArg _ (privileged_error ha (handleBypass_of_error (s := s.setPending emptyBlock) hb hok))

/-! ### The reserved opcodes (44_commands.md R227) -/

theorem reservedOpcode_eq (s : State) :
    reservedOpcode s = s.absorb (if s.session.isAuthenticated then .validation else .auth) := by
  rw [reservedOpcode]
  split <;> rfl

/-- Settles O31: the eight opcodes have one meaning. -/
theorem reservedOpcodesChangeNothing : Obligations.ReservedOpcodesChangeNothing := by
  intro m p s i hi
  have hexec : exec i s = .next (reservedOpcode s) := by
    simp only [List.mem_cons, List.not_mem_nil, or_false] at hi
    rcases hi with rfl | rfl | rfl | rfl | rfl | rfl | rfl | rfl <;> rfl
  rw [hexec, reservedOpcode_eq]
  rfl

end Sys2Proof.Machine
end

section
/-! PROOFS. Frames (10_state.md section 9): what a request leaves as it is, by its opcode; what an Error leaves
(43_dispatch_and_reply.md R190); and what the two frames of the block leave. -/

namespace Sys2Proof.Machine

/-! ### What a request leaves, by its opcode -/

/-- What a request of opcode `op` leaves as it is (10_state.md section 9, the writers of each field). -/
structure RequestFrame (op : Nibble) (s t : State) : Prop where
  cfg : t.cfg = s.cfg
  rx : t.rx = s.rx
  tx : t.tx = s.tx
  targets : op ≠ 0x5#4 → t.targets = s.targets
  inputs : t.env.inputs = s.env.inputs
  accessor : op ≠ 0x4#4 → t.env.accessor = s.env.accessor
  bypass : op ≠ 0x8#4 → t.env.bypass = s.env.bypass
  freeCount : op ≠ 0x8#4 → t.env.freeCount = s.env.freeCount
  memory : op ≠ 0x4#4 → op ≠ 0x8#4 → t.env.memory = s.env.memory
  ports : op ≠ 0x4#4 → op ≠ 0x8#4 → t.trace.ports = s.trace.ports
  slaveSeq : t.session.slaveSeq = s.session.slaveSeq
  passkey : t.session.passkey = s.session.passkey
  logWatchdogLimit : t.session.logWatchdogLimit = s.session.logWatchdogLimit
  versionInfo : t.session.versionInfo = s.session.versionInfo
  isAuthenticated : op ≠ 0x6#4 → t.session.isAuthenticated = s.session.isAuthenticated
  logIntervalPeriod : op ≠ 0x3#4 → t.session.logIntervalPeriod = s.session.logIntervalPeriod
  logIntervalCounter : op ≠ 0x1#4 → t.session.logIntervalCounter = s.session.logIntervalCounter
  isLoggingEnabled : op = 0x4#4 → t.session.isLoggingEnabled = s.session.isLoggingEnabled
  logging : op ≠ 0x1#4 → t.session.isLoggingEnabled = true → s.session.isLoggingEnabled = true

section
variable {op : Nibble} {s t u : State}

theorem RequestFrame.refl (op : Nibble) (s : State) : RequestFrame op s s :=
  ⟨rfl, rfl, rfl, fun _ => rfl, rfl, fun _ => rfl, fun _ => rfl, fun _ => rfl, fun _ _ => rfl, fun _ _ => rfl,
    rfl, rfl, rfl, rfl, fun _ => rfl, fun _ => rfl, fun _ => rfl, fun _ => rfl, fun _ => id⟩

theorem RequestFrame.trans (h : RequestFrame op s t) (k : RequestFrame op t u) : RequestFrame op s u where
  cfg := k.cfg.trans h.cfg
  rx := k.rx.trans h.rx
  tx := k.tx.trans h.tx
  targets ho := (k.targets ho).trans (h.targets ho)
  inputs := k.inputs.trans h.inputs
  accessor ho := (k.accessor ho).trans (h.accessor ho)
  bypass ho := (k.bypass ho).trans (h.bypass ho)
  freeCount ho := (k.freeCount ho).trans (h.freeCount ho)
  memory ho ho' := (k.memory ho ho').trans (h.memory ho ho')
  ports ho ho' := (k.ports ho ho').trans (h.ports ho ho')
  slaveSeq := k.slaveSeq.trans h.slaveSeq
  passkey := k.passkey.trans h.passkey
  logWatchdogLimit := k.logWatchdogLimit.trans h.logWatchdogLimit
  versionInfo := k.versionInfo.trans h.versionInfo
  isAuthenticated ho := (k.isAuthenticated ho).trans (h.isAuthenticated ho)
  logIntervalPeriod ho := (k.logIntervalPeriod ho).trans (h.logIntervalPeriod ho)
  logIntervalCounter ho := (k.logIntervalCounter ho).trans (h.logIntervalCounter ho)
  isLoggingEnabled ho := (k.isLoggingEnabled ho).trans (h.isLoggingEnabled ho)
  logging ho hl := h.logging ho (k.logging ho hl)

/-- What the dispatcher itself writes (43_dispatch_and_reply.md R186 to R190) is in no frame: `pendingBlock`,
`masterSeq`, the watchdog counter, `isReplyPending` and the record of errors. -/
theorem setPending_frame (b : Block) : RequestFrame op s (s.setPending b) := { RequestFrame.refl op s with }

theorem accept_frame (m : Nibble) : RequestFrame op s (s.accept m) := { RequestFrame.refl op s with }

theorem setReplyPending_frame (v : Bool) : RequestFrame op s (s.setReplyPending v) :=
  { RequestFrame.refl op s with }

theorem absorb_frame (cls : ErrorClass) : RequestFrame op s (s.absorb cls) := { RequestFrame.refl op s with }

/-- The frame of a handler is that of its request. -/
theorem runHandler_frame {h : Handler} (hh : ∀ u, RequestFrame op u (h u).2) (m : Nibble) (s : State) :
    RequestFrame op s (runHandler m h s) :=
  runHandler_rel ((setPending_frame emptyBlock).trans (hh _))
    (fun _ hu => hu.trans ((accept_frame m).trans (setReplyPending_frame true)))
    (fun _ hu => hu.trans (accept_frame m)) (fun _ cls hu => hu.trans (absorb_frame cls))

theorem privileged_frame {h : Handler} (hh : ∀ u, RequestFrame op u (h u).2) (m : Nibble) (s : State) :
    RequestFrame op s (privileged m h s) := by
  rcases privileged_cases m h s with ⟨-, e⟩ | ⟨-, e⟩ <;> rw [e]
  · exact absorb_frame .auth
  · exact runHandler_frame hh m s

theorem reservedOpcode_frame (s : State) : RequestFrame op s (reservedOpcode s) :=
  reservedOpcode_eq s ▸ absorb_frame _

end

/-! ### The frame of each handler -/

theorem handleLogstart_frame (p : List Byte) (s : State) : RequestFrame 0x1#4 s (handleLogstart p s).2 := by
  unfold handleLogstart
  split_ifs
  · exact .refl _ s
  · exact .refl _ s
  · constructor <;> simp

theorem handleLogstop_frame (s : State) : RequestFrame 0x2#4 s (handleLogstop s).2 := by
  constructor <;> simp [handleLogstop]

theorem handleLogperiod_frame (o : Operands Half) (s : State) :
    RequestFrame 0x3#4 s (handleLogperiod o s).2 := by
  cases o with
  | badLength p => exact .refl _ s
  | fields period =>
    by_cases h : period = 0#16
    · subst h
      exact .refl _ s
    · rw [handleLogperiod_of_pos s h]
      constructor <;> simp

theorem handleWrite_frame (o : Operands WriteFields) (s : State) : RequestFrame 0x4#4 s (handleWrite o s).2 := by
  rcases handleWrite_cases o s with h | ⟨f, rfl, hf, -⟩
  · rw [h]
    exact .refl _ s
  · by_cases ha : accessorAnswer s = .fault
    · rw [handleWrite_of_fault hf ha]
      constructor <;> simp [afterAccess]
    · rw [handleWrite_of_answer hf ha]
      constructor <;> simp [afterAccess]

theorem handleLogcfg_frame (o : Operands CfgFields) (s : State) : RequestFrame 0x5#4 s (handleLogcfg o s).2 := by
  rcases handleLogcfg_cases o s with ⟨array, -, h⟩ | ⟨array, c, n, -, -, -, -, h⟩ <;> rw [h]
  · constructor <;> simp
  · constructor <;> simp

theorem handleAuth_frame (o : Operands Word) (s : State) : RequestFrame 0x6#4 s (handleAuth o s).2 := by
  cases o with
  | badLength p => exact .refl _ s
  | fields key =>
    by_cases h : key = s.session.passkey
    · rw [h, handleAuth_of_key]
      constructor <;> simp
    · rw [handleAuth_of_wrong_key h]
      constructor <;> simp

theorem handleDump_frame (o : Operands DumpFields) (s : State) : RequestFrame 0x7#4 s (handleDump o s).2 := by
  cases o with
  | badLength p => exact .refl _ s
  | fields f =>
    rcases Nat.lt_or_ge s.cfg.maxPayload f.length.toNat with h | h
    · rw [handleDump_of_too_long h]
      exact .refl _ s
    · rw [handleDump_of_legal h]
      constructor <;> simp

theorem handleBypass_frame (p : List Byte) (s : State) : RequestFrame 0x8#4 s (handleBypass p s).2 := by
  rcases handleBypass_cases p s with ⟨-, h⟩ | ⟨-, v, b, -, h⟩ <;> rw [h]
  · constructor <;> simp
  · constructor <;> simp

/-- Every request keeps the frame of its opcode. -/
theorem exec_request_frame {i : Instr} {op : Nibble} {s t : State} (hop : i.opcode = some op)
    (h : exec i s = .next t) : RequestFrame op s t := by
  cases i with
  | logstart m p => cases hop; cases h; exact privileged_frame (handleLogstart_frame p) m s
  | logstop m p => cases hop; cases h; exact privileged_frame handleLogstop_frame m s
  | logperiod m o => cases hop; cases h; exact privileged_frame (handleLogperiod_frame o) m s
  | write m o => cases hop; cases h; exact privileged_frame (handleWrite_frame o) m s
  | logcfg m o => cases hop; cases h; exact privileged_frame (handleLogcfg_frame o) m s
  | auth m o => cases hop; cases h; exact runHandler_frame (handleAuth_frame o) m s
  | dump m o => cases hop; cases h; exact privileged_frame (handleDump_frame o) m s
  | bypass m p => cases hop; cases h; exact privileged_frame (handleBypass_frame p) m s
  | reserved0 m p | reserved9 m p | reservedA m p | reservedB m p | reservedC m p | reservedD m p
  | reservedE m p | reservedF m p => cases h; exact reservedOpcode_frame s
  | reply | telemetry | fend | fesc | tfend | tfesc => cases hop

/-- Where the inputs, the memory, the answers left and the count are as before, the environment is. -/
theorem Environment.eq_of_fields {x y : Environment} (hinputs : x.inputs = y.inputs) (hmemory : x.memory = y.memory)
    (haccessor : x.accessor = y.accessor) (hbypass : x.bypass = y.bypass) (hcount : x.freeCount = y.freeCount) :
    x = y := by
  cases x
  cases y
  simp_all

theorem RequestFrame.env {op : Nibble} {s t : State} (h : RequestFrame op s t) (h4 : op ≠ 0x4#4)
    (h8 : op ≠ 0x8#4) : t.env = s.env :=
  Environment.eq_of_fields h.inputs (h.memory h4 h8) (h.accessor h4) (h.bypass h8) (h.freeCount h8)

/-- The session of a request that leaves the level, the period and the sampler's counter. -/
theorem RequestFrame.session {op : Nibble} {s t : State} (h : RequestFrame op s t) (h1 : op ≠ 0x1#4)
    (h3 : op ≠ 0x3#4) (h6 : op ≠ 0x6#4) :
    t.session =
      { s.session with
        isLoggingEnabled := t.session.isLoggingEnabled
        pendingBlock := t.session.pendingBlock
        masterSeq := t.session.masterSeq
        logTimeoutCounter := t.session.logTimeoutCounter
        isReplyPending := t.session.isReplyPending } := by
  dsimp only
  rw [← h.isAuthenticated h6, ← h.slaveSeq, ← h.passkey, ← h.logWatchdogLimit, ← h.logIntervalCounter h1,
    ← h.logIntervalPeriod h3, ← h.versionInfo]

/-- Settles O39: the frame of an opcode that is not WRITE's, LOGCFG's or BYPASS's. -/
theorem sessionCommandsLeaveTheRest : Obligations.SessionCommandsLeaveTheRest := by
  intro i op s t hop h4 h5 h8 hexec
  have h := exec_request_frame hop hexec
  have henv := h.env h4 h8
  exact ⟨h.cfg, h.rx, h.tx, h.targets h5, henv, fun a => by rw [henv], h.ports h4 h8, h.slaveSeq, h.passkey,
    h.logWatchdogLimit, h.versionInfo, h.isAuthenticated, h.logIntervalPeriod, h.logIntervalCounter⟩

/-- Settles O40: the frame of LOGCFG's opcode. -/
theorem logcfgLeavesTheRest : Obligations.LogcfgLeavesTheRest := by
  intro m ops s t hexec
  have h : RequestFrame 0x5#4 s t := exec_request_frame rfl hexec
  have henv := h.env (by decide) (by decide)
  exact ⟨h.cfg, h.rx, h.tx, henv, fun a => by rw [henv], h.ports (by decide) (by decide),
    h.session (by decide) (by decide) (by decide)⟩

/-! ### Device memory after WRITE and BYPASS -/

/-- Device memory after a WRITE: as before, or with the bytes of its access (44_commands.md R213). -/
def WritesAtMostItsAccess (ops : Operands WriteFields) (s t : State) : Prop :=
  t.env.memory = s.env.memory ∨
  (s.session.isAuthenticated = true ∧
    ∃ f, ops = .fields f ∧ t.env.memory = memPutBytes s.cfg f.address 0 f.data s.env.memory)

theorem exec_write_memory {m : Nibble} {ops : Operands WriteFields} {s t : State}
    (h : exec (.write m ops) s = .next t) : WritesAtMostItsAccess ops s t := by
  obtain rfl := Host.Outcome.next.inj h
  refine privileged_rel (R := WritesAtMostItsAccess ops) (.inl rfl) (fun ha => ?_) (fun _ hu => hu)
    (fun _ hu => hu) (fun _ _ hu => hu)
  rcases handleWrite_cases ops (s.setPending emptyBlock) with hr | ⟨f, rfl, -, ⟨hw, hr⟩ | ⟨hw, hr⟩⟩ <;> rw [hr]
  · exact .inl rfl
  · refine .inl ?_
    obtain ⟨-, -, -, -, -, -, -, hmem⟩ := memWrite_frame f.address f.width f.data (s.setPending emptyBlock)
    exact hmem.trans (by rw [hw]; rfl)
  · refine .inr ⟨ha, f, rfl, ?_⟩
    obtain ⟨-, -, -, -, -, -, -, hmem⟩ := memWrite_frame f.address f.width f.data (s.setPending emptyBlock)
    exact hmem.trans (by rw [hw]; rfl)

/-- The environment after a BYPASS: as before, or after one call of a registered capability
(44_commands.md R225). -/
def CallsAtMostOnce (p : List Byte) (s t : State) : Prop :=
  t.env = s.env ∨
  (s.session.isAuthenticated = true ∧ s.cfg.bypass = true ∧
    t.env.memory = memPutCells s.cfg (bypassAnswer p s).stores s.env.memory)

theorem exec_bypass_env {m : Nibble} {p : List Byte} {s t : State} (h : exec (.bypass m p) s = .next t) :
    CallsAtMostOnce p s t := by
  obtain rfl := Host.Outcome.next.inj h
  refine privileged_rel (R := CallsAtMostOnce p) (.inl rfl) (fun ha => ?_) (fun _ hu => hu) (fun _ hu => hu)
    (fun _ _ hu => hu)
  rcases handleBypass_cases p (s.setPending emptyBlock) with ⟨-, hr⟩ | ⟨hb, v, b, -, hr⟩ <;> rw [hr]
  · exact .inl rfl
  · exact .inr ⟨ha, hb, rfl⟩

/-- Settles O41: the frame of WRITE's opcode, and memory outside the bytes of the access. -/
theorem writeLeavesTheRest : Obligations.WriteLeavesTheRest := by
  intro m ops s t hwf hexec
  have h : RequestFrame 0x4#4 s t := exec_request_frame rfl hexec
  have hsession := h.session (by decide) (by decide) (by decide)
  rw [h.isLoggingEnabled rfl] at hsession
  refine ⟨h.cfg, h.rx, h.tx, h.targets (by decide), h.inputs, h.bypass (by decide), h.freeCount (by decide),
    hsession, ?_, ?_⟩
  · rintro f rfl a ha
    rcases exec_write_memory hexec with hmem | ⟨-, g, hg, hmem⟩ <;> rw [hmem]
    cases hg
    refine memGet_memPutBytes_outside s.cfg f.address a f.data 0 hwf fun j _ hj => ?_
    rw [wrapAddr_toNat]
    exact ha j (by omega)
  · rintro p rfl a
    rcases exec_write_memory hexec with hmem | ⟨-, g, hg, -⟩
    · rw [hmem]
    · cases hg

/-- Settles O42: the frame of BYPASS's opcode, and memory outside the bytes the capability stores. -/
theorem bypassLeavesTheRest : Obligations.BypassLeavesTheRest := by
  intro m p s t hwf hexec
  have h : RequestFrame 0x8#4 s t := exec_request_frame rfl hexec
  refine ⟨h.cfg, h.rx, h.tx, h.targets (by decide), h.inputs, h.accessor (by decide),
    h.session (by decide) (by decide) (by decide), fun a ha => ?_, fun hb => ?_⟩
  · rcases exec_bypass_env hexec with henv | ⟨-, -, hmem⟩
    · rw [henv]
    · rw [hmem]
      refine memGet_memPutCells_outside s.cfg a _ hwf fun cell hc => ?_
      rw [wrapAddr_toNat]
      exact ha cell hc
  · rcases exec_bypass_env hexec with henv | ⟨-, hb', -⟩
    · exact henv
    · exact absurd (hb.symm.trans hb') Bool.false_ne_true

/-! ### What an Error leaves (43_dispatch_and_reply.md R190) -/

/-- What a handler of opcode `op` that answers Error leaves, beyond the frame of its opcode: the four
exceptions are AUTH's flag, LOGCFG's targets and BYPASS's flag and stores. -/
structure ErrorFrame (op : Nibble) (s t : State) : Prop where
  counts : op = 0x5#4 → t.targets.stagedCount = 0 ∧ t.targets.committedCount = 0
  memory : op ≠ 0x8#4 → t.env.memory = s.env.memory
  session : t.session =
    { s.session with
      isAuthenticated := t.session.isAuthenticated
      isLoggingEnabled := t.session.isLoggingEnabled }
  isLoggingEnabled : op ≠ 0x8#4 → t.session.isLoggingEnabled = s.session.isLoggingEnabled

theorem ErrorFrame.refl {op : Nibble} (h5 : op ≠ 0x5#4) (s : State) : ErrorFrame op s s :=
  ⟨fun h => absurd h h5, fun _ => rfl, rfl, fun _ => rfl⟩

/-- A handler that, when it answers Error, keeps that frame. -/
def KeepsErrorFrame (op : Nibble) (h : Handler) : Prop :=
  ∀ s u cls, h s = (.error cls, u) → ErrorFrame op s u

theorem handleLogstart_errorFrame (p : List Byte) : KeepsErrorFrame 0x1#4 (handleLogstart p) := by
  intro s u cls h
  unfold handleLogstart at h
  split_ifs at h <;> cases h
  exact .refl (by decide) s

theorem handleLogstop_errorFrame : KeepsErrorFrame 0x2#4 handleLogstop := by
  intro s u cls h
  cases h

theorem handleLogperiod_errorFrame (o : Operands Half) : KeepsErrorFrame 0x3#4 (handleLogperiod o) := by
  intro s u cls h
  cases o with
  | badLength p => cases h; exact .refl (by decide) s
  | fields period =>
    simp only [handleLogperiod] at h
    split_ifs at h <;> cases h
    exact .refl (by decide) s

theorem handleWrite_errorFrame (o : Operands WriteFields) : KeepsErrorFrame 0x4#4 (handleWrite o) := by
  intro s u cls h
  rcases handleWrite_cases o s with hr | ⟨f, -, -, ⟨hw, hr⟩ | ⟨-, hr⟩⟩ <;> rw [hr] at h
  · cases h
    exact .refl (by decide) s
  · cases h
    obtain ⟨-, -, -, hsession, -, -, -, hmem⟩ := memWrite_frame f.address f.width f.data s
    rw [hw] at hmem
    exact ⟨fun h => absurd h (by decide), fun _ => hmem, by rw [hsession], fun _ => by rw [hsession]⟩
  · split_ifs at h <;> cases h

theorem handleLogcfg_errorFrame (o : Operands CfgFields) : KeepsErrorFrame 0x5#4 (handleLogcfg o) := by
  intro s u cls h
  rcases handleLogcfg_cases o s with ⟨array, -, hr⟩ | ⟨array, c, n, -, -, -, -, hr⟩ <;> rw [hr] at h <;> cases h
  exact ⟨fun _ => ⟨rfl, rfl⟩, fun _ => rfl, rfl, fun _ => rfl⟩

theorem handleAuth_errorFrame (o : Operands Word) : KeepsErrorFrame 0x6#4 (handleAuth o) := by
  intro s u cls h
  cases o with
  | badLength p => cases h; exact .refl (by decide) s
  | fields key =>
    simp only [handleAuth] at h
    split_ifs at h <;> cases h
    exact ⟨fun h => absurd h (by decide), fun _ => rfl, rfl, fun _ => rfl⟩

theorem handleDump_errorFrame (o : Operands DumpFields) : KeepsErrorFrame 0x7#4 (handleDump o) := by
  intro s u cls h
  cases o with
  | badLength p => cases h; exact .refl (by decide) s
  | fields f =>
    simp only [handleDump] at h
    split_ifs at h <;> cases h
    exact .refl (by decide) s

theorem handleBypass_errorFrame (p : List Byte) : KeepsErrorFrame 0x8#4 (handleBypass p) := by
  intro s u cls h
  rcases handleBypass_cases p s with ⟨-, hr⟩ | ⟨-, v, b, ⟨-, rfl⟩ | ⟨rfl, -⟩, hr⟩ <;> rw [hr] at h <;> cases h
  · exact ⟨fun h => absurd h (by decide), fun h => absurd rfl h, rfl, fun h => absurd rfl h⟩
  · exact ⟨fun h => absurd h (by decide), fun h => absurd rfl h, rfl, fun h => absurd rfl h⟩

/-- A request that ends in Error: refused with nothing done (of an authenticated peer, not a LOGCFG), or its
handler answered Error after `pendingBlock` was cleared. -/
def ErrorOutcome (op : Nibble) (s t : State) : Prop :=
  ∃ cls, (t = s.absorb cls ∧ (op = 0x5#4 → s.session.isAuthenticated = false)) ∨
    ∃ u, ErrorFrame op (s.setPending emptyBlock) u ∧ t = u.absorb cls

section
variable {op : Nibble} {s : State}

theorem runHandler_errorOutcome {h : Handler} (hsame : ∀ u, SameSequencing u (h u).2)
    (hframe : KeepsErrorFrame op h) (m : Nibble)
    (herror : (runHandler m h s).trace.absorbed ≠ s.trace.absorbed) : ErrorOutcome op s (runHandler m h s) := by
  have hu := (hsame (s.setPending emptyBlock)).absorbed
  rcases runHandler_cases m h s with ⟨u, e, r⟩ | ⟨u, e, r⟩ | ⟨u, cls, e, r⟩ <;> rw [e] at hu <;>
    rw [r] at herror ⊢
  · exact absurd hu herror
  · exact absurd hu herror
  · exact ⟨cls, .inr ⟨u, hframe _ u cls e, rfl⟩⟩

theorem privileged_errorOutcome {h : Handler} (hsame : ∀ u, SameSequencing u (h u).2)
    (hframe : KeepsErrorFrame op h) (m : Nibble)
    (herror : (privileged m h s).trace.absorbed ≠ s.trace.absorbed) : ErrorOutcome op s (privileged m h s) := by
  rcases privileged_cases m h s with ⟨ha, e⟩ | ⟨-, e⟩ <;> rw [e] at herror ⊢
  · exact ⟨.auth, .inl ⟨rfl, fun _ => ha⟩⟩
  · exact runHandler_errorOutcome hsame hframe m herror

end

theorem exec_request_errorOutcome {i : Instr} {op : Nibble} {s t : State} (hop : i.opcode = some op)
    (h : exec i s = .next t) (herror : t.trace.absorbed ≠ s.trace.absorbed) : ErrorOutcome op s t := by
  have reserved (h5 : op ≠ 0x5#4) : ErrorOutcome op s (reservedOpcode s) :=
    ⟨_, .inl ⟨reservedOpcode_eq s, fun ho => absurd ho h5⟩⟩
  cases i with
  | logstart m p =>
    cases hop; cases h
    exact privileged_errorOutcome (handleLogstart_same p) (handleLogstart_errorFrame p) m herror
  | logstop m p =>
    cases hop; cases h
    exact privileged_errorOutcome handleLogstop_same handleLogstop_errorFrame m herror
  | logperiod m o =>
    cases hop; cases h
    exact privileged_errorOutcome (handleLogperiod_same o) (handleLogperiod_errorFrame o) m herror
  | write m o =>
    cases hop; cases h
    exact privileged_errorOutcome (handleWrite_same o) (handleWrite_errorFrame o) m herror
  | logcfg m o =>
    cases hop; cases h
    exact privileged_errorOutcome (handleLogcfg_same o) (handleLogcfg_errorFrame o) m herror
  | auth m o =>
    cases hop; cases h
    exact runHandler_errorOutcome (handleAuth_same o) (handleAuth_errorFrame o) m herror
  | dump m o =>
    cases hop; cases h
    exact privileged_errorOutcome (handleDump_same o) (handleDump_errorFrame o) m herror
  | bypass m p =>
    cases hop; cases h
    exact privileged_errorOutcome (handleBypass_same p) (handleBypass_errorFrame p) m herror
  | reserved0 m p | reserved9 m p | reservedA m p | reservedB m p | reservedC m p | reservedD m p
  | reservedE m p | reservedF m p => cases hop; cases h; exact reserved (by decide)
  | reply | telemetry | fend | fesc | tfend | tfesc => cases hop

/-- Settles O20: the frame of the opcode, and that of an Error. -/
theorem errorsChangeNothingButTheFourExceptions : Obligations.ErrorsChangeNothingButTheFourExceptions := by
  intro i op s t hop hexec herror
  have h := exec_request_frame hop hexec
  refine ⟨h.cfg, h.rx, h.tx, h.inputs, h.targets, ?_⟩
  obtain ⟨cls, ⟨rfl, hgate⟩ | ⟨u, hu, rfl⟩⟩ := exec_request_errorOutcome hop hexec herror
  · exact ⟨fun h5 ha => absurd ((hgate h5).symm.trans ha) Bool.false_ne_true, fun _ => rfl, rfl, .inl rfl,
      fun _ => rfl, fun _ => rfl⟩
  · have hsession : u.session =
        { s.session with
          pendingBlock := emptyBlock
          isAuthenticated := u.session.isAuthenticated
          isLoggingEnabled := u.session.isLoggingEnabled } := hu.session
    have hpending : u.session.pendingBlock = emptyBlock := by rw [hsession]
    refine ⟨fun h5 _ => hu.counts h5, hu.memory, ?_, .inr hpending, h.isAuthenticated, hu.isLoggingEnabled⟩
    rw [State.absorb_session, hpending]
    exact hsession

/-! ### What the two frames of the block leave -/

/-- Reading and loading writes the transmitter, `slaveSeq`, the answers left and the record alone. -/
theorem readAndLoad_frame (l : List (Addr × Width)) (s : State) :
    (readAndLoad l s).cfg = s.cfg ∧ (readAndLoad l s).rx = s.rx ∧ (readAndLoad l s).targets = s.targets ∧
    (readAndLoad l s).env = { s.env with accessor := (readAndLoad l s).env.accessor } ∧
    (readAndLoad l s).session = { s.session with slaveSeq := (readAndLoad l s).session.slaveSeq } := by
  obtain ⟨u, hu, h | ⟨p, -, h⟩⟩ := readAndLoad_cases l s <;> rw [h]
  · exact ⟨hu.cfg, hu.rx, hu.targets,
      Environment.eq_of_fields hu.inputs hu.memory rfl hu.bypass hu.freeCount, by
        rw [State.absorb_session, hu.session]⟩
  · obtain ⟨hcfg, hrx, htargets, henv, -, hsession⟩ := loadFrame_frame p u
    rw [hcfg, hrx, htargets, henv, hsession]
    exact ⟨hu.cfg, hu.rx, hu.targets,
      Environment.eq_of_fields hu.inputs hu.memory rfl hu.bypass hu.freeCount, by rw [hu.session]⟩

/-- What REPLY and TELEMETRY leave; the flag is cleared by the reply alone. -/
structure DeviceFrame (s t : State) : Prop where
  cfg : t.cfg = s.cfg
  rx : t.rx = s.rx
  targets : t.targets = s.targets
  env : t.env = { s.env with accessor := t.env.accessor }
  session : t.session =
    { s.session with slaveSeq := t.session.slaveSeq, isReplyPending := t.session.isReplyPending }

theorem DeviceFrame.refl (s : State) : DeviceFrame s s := ⟨rfl, rfl, rfl, rfl, rfl⟩

theorem exec_reply_frame {s t : State} (h : exec .reply s = .next t) : DeviceFrame s t := by
  obtain rfl := Host.Outcome.next.inj h
  split
  · obtain ⟨hcfg, hrx, htargets, henv, hsession⟩ :=
      readAndLoad_frame (blockReads s.cfg s.session.pendingBlock) (s.setReplyPending false)
    exact ⟨hcfg, hrx, htargets, henv, by rw [hsession]; rfl⟩
  · exact .refl s

theorem exec_telemetry_frame {s t : State} (h : exec .telemetry s = .next t) :
    DeviceFrame s t ∧ t.session.isReplyPending = s.session.isReplyPending := by
  obtain rfl := Host.Outcome.next.inj h
  split
  · obtain ⟨hcfg, hrx, htargets, henv, hsession⟩ := readAndLoad_frame (sampleReads s.targets) s
    exact ⟨⟨hcfg, hrx, htargets, henv, by rw [hsession]⟩, by rw [hsession]⟩
  · exact ⟨.refl s, rfl⟩

/-- Settles O43: both frames of the block are read and loaded. -/
theorem deviceFramesLeaveTheRest : Obligations.DeviceFramesLeaveTheRest := by
  intro i s t hi hexec
  have h : DeviceFrame s t ∧ (i = .telemetry → t.session.isReplyPending = s.session.isReplyPending) := by
    rcases hi with rfl | rfl
    · exact ⟨exec_reply_frame hexec, fun h => by cases h⟩
    · obtain ⟨hframe, hflag⟩ := exec_telemetry_frame hexec
      exact ⟨hframe, fun _ => hflag⟩
  obtain ⟨⟨hcfg, hrx, htargets, henv, hsession⟩, hflag⟩ := h
  exact ⟨hcfg, hrx, htargets, by rw [henv], by rw [henv], by rw [henv], fun a => by rw [henv], hsession, hflag⟩

end Sys2Proof.Machine
end

section
/-! PROOFS. The drain of a loaded frame (42_frame_transmitter.md section 4) and the wire form it yields
(30_encoding.md section 1). -/

namespace Sys2Proof.Machine

/-! ### The wire form of a body (30_encoding.md R90 to R92) -/

/-- The three ways a body byte travels. -/
theorem escapeByte_cases (b : Byte) :
    (b = 0xC0#8 ∧ escapeByte b = [0xDB#8, 0xDC#8]) ∨ (b = 0xDB#8 ∧ escapeByte b = [0xDB#8, 0xDD#8]) ∨
    (b ≠ 0xC0#8 ∧ b ≠ 0xDB#8 ∧ escapeByte b = [b]) := by
  by_cases hend : b = 0xC0#8
  · subst hend
    exact .inl ⟨rfl, rfl⟩
  by_cases hesc : b = 0xDB#8
  · subst hesc
    exact .inr (.inl ⟨rfl, rfl⟩)
  · exact .inr (.inr ⟨hend, hesc, (if_neg hend).trans (if_neg hesc)⟩)

/-- An escaped body is longer by one byte for each special one. -/
theorem escaped_length (body : List Byte) :
    (body.flatMap escapeByte).length = body.length + (body.filter isSpecial).length := by
  induction body with
  | nil => rfl
  | cons b body ih =>
    rw [List.flatMap_cons, List.length_append, ih]
    rcases escapeByte_cases b with ⟨rfl, h⟩ | ⟨rfl, h⟩ | ⟨hend, hesc, h⟩
    · simp [h, isSpecial]
      omega
    · simp [h, isSpecial]
      omega
    · simp [h, isSpecial, hend, hesc]
      omega

/-- No delimiter stands in an escaped body. -/
theorem delimiter_not_mem_escaped (body : List Byte) : 0xC0#8 ∉ body.flatMap escapeByte := by
  intro h
  obtain ⟨b, -, hb⟩ := List.mem_flatMap.1 h
  rcases escapeByte_cases b with ⟨-, e⟩ | ⟨-, e⟩ | ⟨hend, -, e⟩ <;> rw [e] at hb
  · simp at hb
  · simp at hb
  · exact hend (List.mem_singleton.1 hb).symm

/-- Each escape in an escaped body stands before an escape code. -/
theorem escape_before_code : ∀ (body : List Byte) (k : Nat), (body.flatMap escapeByte)[k]? = some 0xDB#8 →
    (body.flatMap escapeByte)[k + 1]? = some 0xDC#8 ∨ (body.flatMap escapeByte)[k + 1]? = some 0xDD#8
  | [], k, h => by simp at h
  | b :: body, k, h => by
    rw [List.flatMap_cons] at h ⊢
    rcases escapeByte_cases b with ⟨-, e⟩ | ⟨-, e⟩ | ⟨-, hesc, e⟩ <;> rw [e] at h ⊢
    · match k, h with
      | 0, _ => exact .inl rfl
      | 1, h => cases h
      | k + 2, h => exact escape_before_code body k h
    · match k, h with
      | 0, _ => exact .inr rfl
      | 1, h => cases h
      | k + 2, h => exact escape_before_code body k h
    · match k, h with
      | 0, h => exact absurd (Option.some.inj h) hesc
      | k + 1, h => exact escape_before_code body k h

/-! ### Pulls in a row -/

theorem pulls_add (m : Nat) : ∀ (n : Nat) (t : Transmit),
    pulls (n + m) t = ((pulls n t).1 ++ (pulls m (pulls n t).2).1, (pulls m (pulls n t).2).2)
  | 0, t => by
    rw [Nat.zero_add]
    rfl
  | n + 1, t => by
    rw [Nat.add_right_comm, pulls, pulls_add m n]
    rfl

section
variable {t : Transmit}

/-- One body byte, pulled in its escaped form; an escaped one is rewritten in place
(42_frame_transmitter.md R163, R164). -/
theorem pulls_escapeByte {v : Byte} (ht : t.state = .busy) (hlt : t.cursor < t.endIndex)
    (hv : t.buffer[t.cursor]? = some v) :
    ∃ w, pulls (escapeByte v).length t =
      ((escapeByte v).map some, { t with buffer := t.buffer.set t.cursor w, cursor := t.cursor + 1 }) := by
  obtain ⟨hroom, -⟩ := List.getElem?_eq_some_iff.1 hv
  have escaped {code : Byte} (hcode : escapeCode v = some code) (hplain : escapeCode code = none) :
      pulls 2 t =
        ([some 0xDB#8, some code], { t with buffer := t.buffer.set t.cursor code, cursor := t.cursor + 1 }) := by
    have hfirst := (pull_of_busy_inside ht hlt).trans (pullBodyByte_of_escaped hv hcode)
    have hsecond : pull { t with buffer := t.buffer.set t.cursor code } =
        (some code, { t with buffer := t.buffer.set t.cursor code, cursor := t.cursor + 1 }) :=
      (pull_of_busy_inside (t := { t with buffer := t.buffer.set t.cursor code }) ht hlt).trans
        (pullBodyByte_of_plain (List.getElem?_set_self hroom) hplain)
    simp only [pulls, hfirst, hsecond]
  rcases escapeByte_cases v with ⟨rfl, e⟩ | ⟨rfl, e⟩ | ⟨hend, hesc, e⟩ <;> rw [e]
  · exact ⟨_, escaped rfl rfl⟩
  · exact ⟨_, escaped rfl rfl⟩
  · refine ⟨v, ?_⟩
    have hset : t.buffer.set t.cursor v = t.buffer := by
      obtain ⟨_, rfl⟩ := List.getElem?_eq_some_iff.1 hv
      exact List.set_getElem_self hroom
    rw [hset]
    simp only [List.length_singleton, pulls, pull_of_busy_inside ht hlt,
      pullBodyByte_of_plain hv (escapeCode_of_ordinary hend hesc), List.map_cons, List.map_nil]

/-- The rest of a body, pulled up to its end. -/
theorem pulls_escaped : ∀ (body : List Byte) {rest : List Byte} {t : Transmit}, t.state = .busy →
    t.cursor + body.length = t.endIndex → t.buffer.drop t.cursor = body ++ rest →
    ∃ u, pulls (body.flatMap escapeByte).length t = ((body.flatMap escapeByte).map some, u) ∧
      u.state = .busy ∧ u.endIndex ≤ u.cursor
  | [], _, t, ht, hend, _ => ⟨t, rfl, ht, Nat.le_of_eq hend.symm⟩
  | b :: body, rest, t, ht, hend, hdrop => by
    simp only [List.length_cons] at hend
    have hv : t.buffer[t.cursor]? = some b := by
      rw [← List.head?_drop, hdrop]
      rfl
    obtain ⟨w, hfirst⟩ := pulls_escapeByte ht (by omega) hv
    have hdrop' : (t.buffer.set t.cursor w).drop (t.cursor + 1) = body ++ rest := by
      rw [List.drop_set_of_lt (Nat.lt_add_one _), ← List.drop_drop, hdrop]
      rfl
    obtain ⟨u, hrest, hu⟩ := pulls_escaped body
      (t := { t with buffer := t.buffer.set t.cursor w, cursor := t.cursor + 1 }) ht
      (by dsimp only; omega) hdrop'
    refine ⟨u, ?_, hu⟩
    rw [List.flatMap_cons, List.length_append, pulls_add, hfirst, hrest, List.map_append]

/-- The whole frame: delimiter, escaped body, delimiter, and then nothing more to send
(42_frame_transmitter.md R170). -/
theorem pulls_wireOf (ht : t.state = .ready) (hend : t.endIndex ≤ t.buffer.length) :
    ∃ u, pulls ((wireOf (t.buffer.take t.endIndex)).length + 1) t =
      ((wireOf (t.buffer.take t.endIndex)).map some ++ [none], u) ∧ u.state = .idle := by
  obtain ⟨u, hbody, hbusy, hle⟩ := pulls_escaped (t.buffer.take t.endIndex)
    (rest := t.buffer.drop t.endIndex) (t := { t with state := .busy, cursor := 0 }) rfl
    (by simp only [List.length_take]; omega) (List.take_append_drop t.endIndex t.buffer).symm
  have hlast : pulls 2 u = ([some 0xC0#8, none], { u with state := .idle }) := by
    simp only [pulls, pull_of_busy_at_end hbusy hle]
    rfl
  have hlen : (wireOf (t.buffer.take t.endIndex)).length + 1 =
      ((t.buffer.take t.endIndex).flatMap escapeByte).length + 2 + 1 := by
    simp [wireOf]
  refine ⟨{ u with state := .idle }, ?_, rfl⟩
  rw [hlen, pulls, pull_of_ready ht, pulls_add, hbody, hlast, wireOf]
  simp [fendByte]

end

/-- Settles O9: the drain, and what the escapes of its wire form look like. -/
theorem drainYieldsTheWireForm : Obligations.DrainYieldsTheWireForm := by
  intro t ht hend
  obtain ⟨u, hpulls, hidle⟩ := pulls_wireOf ht hend
  rw [hpulls]
  refine ⟨rfl, hidle, ?_, (t.buffer.take t.endIndex).flatMap escapeByte, rfl, delimiter_not_mem_escaped _,
    escape_before_code _⟩
  have hlen : (t.buffer.take t.endIndex).length = t.endIndex := List.length_take_of_le hend
  simp only [wireOf, List.cons_append, List.length_cons, List.length_append, List.length_nil, escaped_length, hlen]
  omega

end Sys2Proof.Machine
end

section
/-! PROOFS. Reset (10_state.md section 8, 70_reset_and_hazards.md section 1), the two timers of logging
(45_log_scheduler.md sections 2 and 3), and what `RX_PUSH` and `TX_PULL` own. -/

namespace Sys2Proof.Machine

/-! ### Reset -/

/-- Settles O1: the fields of `State.reset`. -/
theorem resetLeavesTheTableValues : Obligations.ResetLeavesTheTableValues :=
  ⟨rfl, rfl, rfl, rfl, rfl, rfl, rfl, rfl, rfl⟩

/-- Settles O2: the step is `resetEvent`. -/
theorem resetEventRestoresEveryField : Obligations.ResetEventRestoresEveryField := by
  intro s rest hc hin
  exact ⟨_, step_of_event hc hin, rfl, rfl, rfl, rfl, rfl, rfl, rfl, rfl, rfl, rfl, rfl, rfl, rfl⟩

/-- Settles O46: the check stands before every event. -/
theorem parametersOutOfBoundsFault : Obligations.ParametersOutOfBoundsFault := by
  intro s hc
  rw [step, stepState, if_neg (by rw [hc]; exact Bool.false_ne_true)]

/-! ### The timers of logging -/

section
variable {s : State}

/-- While logging the watchdog counts, and logging goes on below the limit (45_log_scheduler.md R241). -/
theorem watchdog_of_logging (e : Half) (hl : s.session.isLoggingEnabled = true) :
    watchdog e s =
      { s with session := { s.session with
        logTimeoutCounter := s.session.logTimeoutCounter + e.toNat
        isLoggingEnabled :=
          decide (s.session.logTimeoutCounter + e.toNat < s.session.logWatchdogLimit.toNat) } } := by
  rw [watchdog, if_pos hl]
  rcases Nat.lt_or_ge (s.session.logTimeoutCounter + e.toNat) s.session.logWatchdogLimit.toNat with hlt | hge
  · rw [decide_eq_true hlt, ← hl]
    exact if_neg (Nat.not_le.2 hlt)
  · rw [decide_eq_false (Nat.not_lt.2 hge)]
    exact if_pos hge

theorem watchdog_of_not_logging (e : Half) (hl : s.session.isLoggingEnabled = false) : watchdog e s = s :=
  if_neg (by rw [hl]; exact Bool.false_ne_true)

theorem sampler_of_not_due {e : Half} (hl : s.session.isLoggingEnabled = true)
    (hlt : s.session.logIntervalCounter + e.toNat < s.session.logIntervalPeriod.toNat) :
    sampler e s = .next (s.setIntervalCounter (s.session.logIntervalCounter + e.toNat)) := by
  rw [sampler, if_pos hl, if_neg (Nat.not_le.2 hlt)]

theorem sampler_of_not_logging {e : Half} (hl : s.session.isLoggingEnabled = false) : sampler e s = .next s :=
  if_neg (by rw [hl]; exact Bool.false_ne_true)

end

/-- Settles O36: by the logging flag. -/
theorem watchdogStopsLoggingAtTheLimit : Obligations.WatchdogStopsLoggingAtTheLimit :=
  fun _ e => ⟨watchdog_of_logging e, watchdog_of_not_logging e⟩

/-- Every instruction has a next state in every state (60_exceptions.md R266). -/
theorem exec_next (i : Instr) (s : State) : ∃ t, exec i s = .next t := by
  cases i <;> exact ⟨_, rfl⟩

/-- Settles O37: not due, due, and not logging; a due sample leaves the session but for `slaveSeq`. -/
theorem samplerCountsToThePeriod : Obligations.SamplerCountsToThePeriod := by
  refine fun s e => ⟨sampler_of_not_due, fun hl hdue => ?due, sampler_of_not_logging⟩
  case due =>
    obtain ⟨t, ht⟩ := exec_next .telemetry (s.setIntervalCounter 0)
    obtain ⟨⟨-, -, htargets, -, hsession⟩, -⟩ := exec_telemetry_frame ht
    exact ⟨t, (sampler_of_due hl hdue).trans ht, by rw [hsession]; rfl, by rw [hsession]; exact hl,
      by rw [hsession]; rfl, htargets⟩

/-! ### A tick with no frame to consume -/

/-- A tick on a receiver that holds no completed body runs T3, T4 and T5 alone. -/
theorem tick_of_not_complete {e : Half} {s t : State} (hr : s.rx.state ≠ .complete) (h : tick e s = .next t) :
    ∃ s3, DeviceFrame (rxTimeout e s) s3 ∧ sampler e (watchdog e s3) = .next t := by
  obtain ⟨-, -, -, -, -, -, -, hkeeps⟩ := rxTimeout_frame e s
  obtain ⟨s2, s3, hconsume, hreply, hsampler⟩ := tick_cases h
  cases (consume_of_not_complete (hkeeps hr)).symm.trans hconsume
  exact ⟨s3, exec_reply_frame hreply, hsampler⟩

/-- What the sampler leaves (45_log_scheduler.md R243). -/
theorem sampler_leaves {e : Half} {s t : State} (h : sampler e s = .next t) :
    t.cfg = s.cfg ∧ t.rx = s.rx ∧ t.targets = s.targets ∧ t.env = { s.env with accessor := t.env.accessor } ∧
    t.session =
      { s.session with
        slaveSeq := t.session.slaveSeq
        logIntervalCounter := t.session.logIntervalCounter
        isReplyPending := t.session.isReplyPending } := by
  unfold sampler at h
  split_ifs at h
  · obtain ⟨⟨hcfg, hrx, htargets, henv, hsession⟩, -⟩ := exec_telemetry_frame h
    exact ⟨hcfg, hrx, htargets, henv, by rw [hsession]; rfl⟩
  · cases h
    exact ⟨rfl, rfl, rfl, rfl, rfl⟩
  · cases h
    exact ⟨rfl, rfl, rfl, rfl, rfl⟩

end Sys2Proof.Machine
end

section
/-! PROOFS. Rules about the whole machine: everything a step can come to, as `RESET`, the block's own work, or a
request and then own work; and the safety statements that follow from it. -/

namespace Sys2Proof.Machine

/-! ### The block's own work -/

/-- A transaction that stores nothing and calls nothing. -/
def PortEvent.quiet : PortEvent → Bool
  | .pulled _ => true
  | .memRead _ _ _ => true
  | .memWrite _ _ _ _ => false
  | .bypassCall _ _ => false

/-- Every transaction is an earlier one or a quiet one. -/
def QuietPorts (s t : State) : Prop := ∀ p ∈ t.trace.ports, p ∈ s.trace.ports ∨ p.quiet = true

theorem QuietPorts.refl (s : State) : QuietPorts s s := fun _ hp => .inl hp

theorem QuietPorts.trans {s t u : State} (h : QuietPorts s t) (k : QuietPorts t u) : QuietPorts s u :=
  fun p hp => (k p hp).elim (h p) .inr

theorem QuietPorts.of_eq {s t : State} (h : t.trace.ports = s.trace.ports) : QuietPorts s t :=
  fun _ hp => .inl (h ▸ hp)

theorem record_quiet {p : PortEvent} (hp : p.quiet = true) (s : State) : QuietPorts s (s.record p) := by
  intro q hq
  rcases List.mem_append.1 hq with h | h
  · exact .inl h
  · exact .inr (List.mem_singleton.1 h ▸ hp)

theorem readAll_quiet : ∀ (l : List (Addr × Width)) (s : State), QuietPorts s (readAll l s).2
  | [], s => .refl s
  | (a, w) :: rest, s => by
    have hfirst : QuietPorts s (afterAccess (.memRead a w (memReadResult a w s)) s) :=
      record_quiet rfl { s with env.accessor := s.env.accessor.tail }
    by_cases h : accessorAnswer s = .fault
    · rw [readAll_of_fault h]
      exact hfirst
    · rw [readAll_of_answer h]
      exact hfirst.trans (readAll_quiet rest _)

theorem readAndLoad_quiet (l : List (Addr × Width)) (s : State) : QuietPorts s (readAndLoad l s) := by
  have h := readAll_quiet l s
  unfold readAndLoad
  split <;> rename_i heq <;> rw [heq] at h <;> exact h

/-- What the block does of its own accord, without a request and without `RESET`, leaves: the parameters, the
targets, device memory, the level and what is loaded at reset; it stores nothing, and turns logging off at most
(10_state.md section 9). -/
structure OwnWork (s t : State) : Prop where
  cfg : t.cfg = s.cfg
  targets : t.targets = s.targets
  env : t.env = { s.env with accessor := t.env.accessor }
  session : t.session =
    { s.session with
      isLoggingEnabled := t.session.isLoggingEnabled
      isReplyPending := t.session.isReplyPending
      slaveSeq := t.session.slaveSeq
      logTimeoutCounter := t.session.logTimeoutCounter
      logIntervalCounter := t.session.logIntervalCounter }
  logging : t.session.isLoggingEnabled = true → s.session.isLoggingEnabled = true
  ports : QuietPorts s t

theorem OwnWork.refl (s : State) : OwnWork s s := ⟨rfl, rfl, rfl, rfl, id, .refl s⟩

theorem OwnWork.trans {s t u : State} (h : OwnWork s t) (k : OwnWork t u) : OwnWork s u where
  cfg := k.cfg.trans h.cfg
  targets := k.targets.trans h.targets
  env := by rw [k.env, h.env]
  session := by rw [k.session, h.session]
  logging hu := h.logging (k.logging hu)
  ports := h.ports.trans k.ports

section
variable {s t : State}

theorem OwnWork.isAuthenticated (h : OwnWork s t) : t.session.isAuthenticated = s.session.isAuthenticated := by
  rw [h.session]

theorem OwnWork.memory (h : OwnWork s t) : t.env.memory = s.env.memory := by rw [h.env]

theorem OwnWork.bypass (h : OwnWork s t) : t.env.bypass = s.env.bypass := by rw [h.env]

/-- The fields loaded at reset (10_state.md R36, R37, R40). -/
theorem OwnWork.loaded (h : OwnWork s t) :
    t.session.passkey = s.session.passkey ∧ t.session.versionInfo = s.session.versionInfo ∧
    t.session.logWatchdogLimit = s.session.logWatchdogLimit := by
  rw [h.session]
  exact ⟨rfl, rfl, rfl⟩

theorem DeviceFrame.ownWork (h : DeviceFrame s t) (hp : QuietPorts s t) : OwnWork s t where
  cfg := h.cfg
  targets := h.targets
  env := h.env
  session := by rw [h.session]
  logging ht := by rwa [h.session] at ht
  ports := hp

end

theorem rxTimeout_ownWork (e : Half) (s : State) : OwnWork s (rxTimeout e s) := by
  obtain ⟨hcfg, -, hsession, htargets, henv, hports, -, -⟩ := rxTimeout_frame e s
  exact ⟨hcfg, htargets, by rw [henv], by rw [hsession], fun h => by rwa [hsession] at h, .of_eq hports⟩

theorem exec_reply_ownWork {s t : State} (h : exec .reply s = .next t) : OwnWork s t := by
  refine (exec_reply_frame h).ownWork ?_
  obtain rfl := Host.Outcome.next.inj h
  split
  · exact readAndLoad_quiet _ (s.setReplyPending false)
  · exact .refl s

theorem exec_telemetry_ownWork {s t : State} (h : exec .telemetry s = .next t) : OwnWork s t := by
  obtain ⟨hframe, -⟩ := exec_telemetry_frame h
  refine hframe.ownWork ?_
  obtain rfl := Host.Outcome.next.inj h
  split
  · exact readAndLoad_quiet _ s
  · exact .refl s

theorem watchdog_ownWork (e : Half) (s : State) : OwnWork s (watchdog e s) := by
  cases hl : s.session.isLoggingEnabled
  · rw [watchdog_of_not_logging e hl]
    exact .refl s
  · rw [watchdog_of_logging e hl]
    exact ⟨rfl, rfl, rfl, rfl, fun _ => hl, .of_eq rfl⟩

theorem setIntervalCounter_ownWork (n : Nat) (s : State) : OwnWork s (s.setIntervalCounter n) :=
  ⟨rfl, rfl, rfl, rfl, id, .of_eq rfl⟩

theorem sampler_ownWork {e : Half} {s t : State} (h : sampler e s = .next t) : OwnWork s t := by
  unfold sampler at h
  split_ifs at h
  · exact (setIntervalCounter_ownWork 0 s).trans (exec_telemetry_ownWork h)
  · cases h
    exact setIntervalCounter_ownWork _ s
  · cases h
    exact .refl s

theorem rxReset_ownWork (s : State) : OwnWork s s.rxReset := ⟨rfl, rfl, rfl, rfl, id, .of_eq rfl⟩

theorem dropBody_ownWork (s : State) : OwnWork s (dropBody s) := ⟨rfl, rfl, rfl, rfl, id, .of_eq rfl⟩

theorem txPull_ownWork (s : State) : OwnWork s (txPull s) :=
  ⟨rfl, rfl, rfl, rfl, id, record_quiet (p := .pulled (pull s.tx).1) rfl { s with tx := (pull s.tx).2 }⟩

/-! ### `RX_PUSH` owns the receiver (41_frame_receiver.md R140) -/

/-- Only the receiver and the record of errors change, and by at most `n` errors. -/
def TouchesReceiver (n : Nat) (s t : State) : Prop :=
  ∃ (rx : Received) (errors : List ErrorClass), errors.length ≤ n ∧
    t = { s with rx := rx, trace := { s.trace with absorbed := s.trace.absorbed ++ errors } }

theorem touchesReceiver_setRx (s : State) (rx : Received) : TouchesReceiver 0 s { s with rx := rx } :=
  ⟨rx, [], Nat.le_refl 0, by rw [List.append_nil]⟩

theorem TouchesReceiver.mono {m n : Nat} {s t : State} (h : TouchesReceiver m s t) (hmn : m ≤ n) :
    TouchesReceiver n s t := by
  obtain ⟨rx, errors, hlen, ht⟩ := h
  exact ⟨rx, errors, hlen.trans hmn, ht⟩

theorem TouchesReceiver.trans {m n : Nat} {s t u : State} (h : TouchesReceiver m s t) (k : TouchesReceiver n t u) :
    TouchesReceiver (m + n) s u := by
  obtain ⟨rx, errors, hlen, rfl⟩ := h
  obtain ⟨rx', errors', hlen', rfl⟩ := k
  exact ⟨rx', errors ++ errors', by rw [List.length_append]; omega, by rw [List.append_assoc]⟩

theorem malformedEscape_touches (s : State) : TouchesReceiver 1 s (malformedEscape s) :=
  ⟨_, [.framing], Nat.le_refl 1, rfl⟩

theorem delimiterInFrame_touches (s : State) : TouchesReceiver 0 s (delimiterInFrame s) := by
  unfold delimiterInFrame
  split
  · exact touchesReceiver_setRx s _
  · exact touchesReceiver_setRx s _

/-- The guard absorbs an error only where it leaves the receiver `Idle`, whose rows absorb none. -/
theorem receive_touches {f g k : State → State} (hf : ∀ s, TouchesReceiver 0 s (f s))
    (hg : ∀ s, TouchesReceiver 1 s (g s)) (hk : ∀ s, TouchesReceiver 1 s (k s)) (s : State) :
    TouchesReceiver 1 s (receive f g k s) := by
  by_cases hfull : (s.rx.state = .framing ∨ s.rx.state = .escaping) ∧ s.cfg.rxCap ≤ s.rx.length
  · rw [receive_of_full hfull.1 hfull.2]
    exact (malformedEscape_touches s).trans (hf _)
  have hcases := receive_cases f g k s
  rw [overflowGuard_of_not_full hfull] at hcases
  rcases hcases with ⟨-, h⟩ | ⟨-, -, h⟩ | ⟨-, -, h⟩ | ⟨-, -, h⟩ | ⟨-, -, h⟩ <;> rw [h]
  · exact (touchesReceiver_setRx s s.rx).mono (Nat.zero_le 1)
  · exact (hf s).mono (Nat.zero_le 1)
  · exact hg s
  · exact hk s
  · exact (touchesReceiver_setRx s s.rx).mono (Nat.zero_le 1)

theorem rxPush_touches {b : Byte} {s t : State} (h : rxPush b s = .next t) : TouchesReceiver 1 s t := by
  have set (rx : State → Received) (s : State) : TouchesReceiver 1 s { s with rx := rx s } :=
    (touchesReceiver_setRx s _).mono (Nat.zero_le 1)
  rw [rxPush_eq] at h
  obtain rfl := Host.Outcome.next.inj h
  split_ifs
  · exact receive_touches (fun s => touchesReceiver_setRx s _)
      (fun s => (delimiterInFrame_touches s).mono (Nat.zero_le 1)) malformedEscape_touches s
  · exact receive_touches (fun s => touchesReceiver_setRx s s.rx) (set _) malformedEscape_touches s
  · exact receive_touches (fun s => touchesReceiver_setRx s s.rx) (set _) (set _) s
  · exact receive_touches (fun s => touchesReceiver_setRx s s.rx) (set _) (set _) s
  · exact receive_touches (fun s => touchesReceiver_setRx s s.rx) (set _) malformedEscape_touches s

theorem rxPush_ownWork {b : Byte} {s t : State} (h : rxPush b s = .next t) : OwnWork s t := by
  obtain ⟨rx, errors, -, rfl⟩ := rxPush_touches h
  exact ⟨rfl, rfl, rfl, rfl, id, .of_eq rfl⟩

/-- Settles O44: `RX_PUSH` touches the receiver; `TX_PULL` is one pull and its record. -/
theorem pushAndPullOwnTheirRecords : Obligations.PushAndPullOwnTheirRecords := by
  refine fun s rest hc => ⟨fun b hin => ?push, fun hin => ?pull⟩
  case push =>
    have hpush : rxPush b (s.begin rest) = .next _ := rxPush_eq b (s.begin rest)
    obtain ⟨rx, errors, hlen, ht⟩ := rxPush_touches hpush
    refine ⟨rx, errors, hlen, (step_of_event hc hin).trans (hpush.trans ?_)⟩
    rw [ht]
    rfl
  case pull => exact ⟨_, _, step_of_event hc hin⟩

/-! ### Everything a step can come to -/

/-- Without a completed frame, or with one that is dropped, a tick is own work; else it is the request, and then
own work. -/
theorem tick_effect {e : Half} {s t : State} (h : tick e s = .next t) :
    OwnWork s t ∨
    ∃ i u, s.rx.state = .complete ∧ decode s.cfg .body s.rxBody = .ok i ∧ exec i s = .next u ∧ OwnWork u t := by
  obtain ⟨s2, s3, hconsume, hreply, hsampler⟩ := tick_cases h
  have hrest : OwnWork s2 t :=
    (exec_reply_ownWork hreply).trans ((watchdog_ownWork e s3).trans (sampler_ownWork hsampler))
  obtain ⟨-, -, -, -, -, -, hsame, hkeeps⟩ := rxTimeout_frame e s
  have hT1 := rxTimeout_ownWork e s
  rcases consume_cases hconsume with ⟨-, rfl⟩ | ⟨-, rfl⟩ | ⟨i, u, hr, hd, hu, rfl⟩
  · exact .inl (hT1.trans hrest)
  · exact .inl (hT1.trans ((dropBody_ownWork _).trans ((rxReset_ownWork _).trans hrest)))
  · have hcomplete : s.rx.state = .complete := by_contra fun hne => hkeeps hne hr
    rw [hsame hcomplete] at hd hu
    exact .inr ⟨i, u, hcomplete, hd, hu, (rxReset_ownWork u).trans hrest⟩

/-- A step is `RESET`, or own work, or the request of the frame that a `TICK` consumes and then own work. -/
theorem step_effect {s t : State} (h : step s = .next t) :
    (∃ rest, s.env.inputs = .reset :: rest ∧ t = resetEvent (s.begin rest)) ∨
    (∃ rest, OwnWork (s.begin rest) t) ∨
    ∃ rest i op u, consumes s i ∧ i.opcode = some op ∧ exec i (s.begin rest) = .next u ∧ OwnWork u t := by
  obtain ⟨-, ⟨-, rfl⟩ | hreset | ⟨b, rest, -, hpush⟩ | ⟨rest, -, rfl⟩ | ⟨e, rest, hin, htick⟩⟩ := step_cases h
  · exact .inr (.inl ⟨[], .refl _⟩)
  · exact .inl hreset
  · exact .inr (.inl ⟨rest, rxPush_ownWork hpush⟩)
  · exact .inr (.inl ⟨rest, txPull_ownWork _⟩)
  · rcases tick_effect htick with hown | ⟨i, u, hr, hd, hu, hown⟩
    · exact .inr (.inl ⟨rest, hown⟩)
    · obtain ⟨seq, p, -, -, -, rfl⟩ := decode_body_ok hd
      obtain ⟨op, hop⟩ := decodeRequest_opcode s.cfg seq p
      exact .inr (.inr ⟨rest, _, op, u, ⟨⟨e, rest, hin⟩, hr, hd⟩, hop, hu, hown⟩)

/-! ### Safety -/

/-- Settles O55: a request and own work leave all four. -/
theorem parametersAndLoadedFieldsStayFixed : Obligations.ParametersAndLoadedFieldsStayFixed := by
  intro s t h
  rcases step_effect h with ⟨rest, hin, rfl⟩ | ⟨rest, hown⟩ | ⟨rest, i, op, u, -, hop, hu, hown⟩
  · exact ⟨rfl, .inr ⟨⟨rest, hin⟩, rfl, rfl, rfl⟩⟩
  · exact ⟨hown.cfg, .inl hown.loaded⟩
  · have hframe := exec_request_frame hop hu
    obtain ⟨hkey, hversion, hlimit⟩ := hown.loaded
    exact ⟨hown.cfg.trans hframe.cfg, .inl ⟨hkey.trans hframe.passkey, hversion.trans hframe.versionInfo,
      hlimit.trans hframe.logWatchdogLimit⟩⟩

theorem step_cfg {s t : State} (h : step s = .next t) : t.cfg = s.cfg := (parametersAndLoadedFieldsStayFixed s t h).1

theorem consume_next (s : State) : ∃ t, consume s = .next t := by
  by_cases hr : s.rx.state = .complete
  · cases hd : decode s.cfg .body s.rxBody with
    | ok i =>
      obtain ⟨u, hu⟩ := exec_next i s
      exact ⟨u.rxReset, by rw [consume_of_decoded hr hd, hu]; rfl⟩
    | error r => exact ⟨_, consume_of_rejected hr hd⟩
  · exact ⟨s, consume_of_not_complete hr⟩

theorem sampler_next (e : Half) (s : State) : ∃ t, sampler e s = .next t := by
  unfold sampler
  split_ifs
  · exact exec_next .telemetry _
  · exact ⟨_, rfl⟩
  · exact ⟨_, rfl⟩

theorem tick_next (e : Half) (s : State) : ∃ t, tick e s = .next t := by
  obtain ⟨s2, h2⟩ := consume_next (rxTimeout e s)
  obtain ⟨s3, h3⟩ := exec_next .reply s2
  obtain ⟨t, ht⟩ := sampler_next e (watchdog e s3)
  exact ⟨t, by rw [tick, h2, andThen_next, h3, andThen_next, ht]⟩

/-- With parameters in their bounds every step has a next state. -/
theorem step_next {s : State} (hc : configOk s.cfg = true) : ∃ t, step s = .next t := by
  cases hin : s.env.inputs with
  | nil => exact ⟨_, step_of_idle hc hin⟩
  | cons ev rest =>
    rw [step_of_event hc hin]
    cases ev with
    | reset => exact ⟨_, rfl⟩
    | rxPush b => exact ⟨_, rxPush_eq b _⟩
    | txPull => exact ⟨_, rfl⟩
    | tick e => exact tick_next e _

/-- So has every run, since the parameters stay. -/
theorem safeRun : ∀ (n : Nat) {s : State}, configOk s.cfg = true → SafeRun n s
  | 0, s, _ => ⟨s, rfl⟩
  | n + 1, s, hc => by
    obtain ⟨u, hu⟩ := step_next hc
    obtain ⟨t, ht⟩ := safeRun n (s := u) (by rwa [step_cfg hu])
    exact ⟨t, (run_next hu).trans ht⟩

/-- Settles O45: instruction by instruction, and run by run. -/
theorem nothingIsFatal : Obligations.NothingIsFatal := ⟨exec_next, fun n _ hc => safeRun n hc⟩

/-- Settles O52: a `TICK` loads a frame into an idle transmitter only. -/
theorem noFrameIsLoadedOverAnother : Obligations.NoFrameIsLoadedOverAnother := by
  intro s t e rest hin hbusy h
  obtain ⟨hc, -⟩ := step_cases h
  rw [step_of_event hc hin] at h
  rcases tick_loads (s := s.begin rest) h with ⟨-, htx⟩ | ⟨-, hidle, -⟩
  · exact htx
  · exact absurd hidle hbusy

section
variable {i : Instr} {op : Nibble} {s t : State}

/-- Unauthenticated, only AUTH does more than absorb an AuthError (43_dispatch_and_reply.md R184). -/
theorem exec_request_unauthenticated (hop : i.opcode = some op) (hne : op ≠ 0x6#4)
    (ha : s.session.isAuthenticated = false) (h : exec i s = .next t) : t = s.absorb .auth :=
  Host.Outcome.next.inj (h.symm.trans (gateRefusesAllButAuth i op s hop hne ha))

theorem logstart_of_opcode (hop : i.opcode = some 0x1#4) : ∃ m p, i = .logstart m p := by
  cases i with
  | logstart m p => exact ⟨m, p, rfl⟩
  | _ => cases hop

theorem auth_of_opcode (hop : i.opcode = some 0x6#4) : ∃ m o, i = .auth m o := by
  cases i with
  | auth m o => exact ⟨m, o, rfl⟩
  | _ => cases hop

theorem write_of_opcode (hop : i.opcode = some 0x4#4) : ∃ m o, i = .write m o := by
  cases i with
  | write m o => exact ⟨m, o, rfl⟩
  | _ => cases hop

theorem bypass_of_opcode (hop : i.opcode = some 0x8#4) : ∃ m p, i = .bypass m p := by
  cases i with
  | bypass m p => exact ⟨m, p, rfl⟩
  | _ => cases hop

/-- The one request that turns logging on (44_commands.md, Summary). -/
theorem exec_request_starts_logging (hop : i.opcode = some op) (h : exec i s = .next t)
    (hoff : s.session.isLoggingEnabled = false) (hon : t.session.isLoggingEnabled = true) :
    s.session.isAuthenticated = true ∧ ∃ m, i = .logstart m [] := by
  have h1 : op = 0x1#4 := by
    by_contra hne
    exact Bool.false_ne_true (hoff.symm.trans ((exec_request_frame hop h).logging hne hon))
  subst h1
  obtain ⟨m, p, rfl⟩ := logstart_of_opcode hop
  cases ha : s.session.isAuthenticated with
  | false =>
    rw [exec_request_unauthenticated hop (by decide) ha h] at hon
    exact absurd (hoff.symm.trans hon) Bool.false_ne_true
  | true =>
    refine ⟨rfl, m, ?_⟩
    by_cases hp : p = []
    · rw [hp]
    · obtain ⟨hrefused, -, -⟩ := logstartStartsLoggingOnce m p s ha
      cases (hrefused hp).symm.trans h
      exact absurd (hoff.symm.trans hon) Bool.false_ne_true

/-- The level after an AUTH, by its key (44_commands.md R215). -/
theorem exec_auth_level {m : Nibble} {o : Operands Word} (h : exec (.auth m o) s = .next t) :
    (o = .fields s.session.passkey ∧ t.session.isAuthenticated = true) ∨
    (∃ key, o = .fields key ∧ key ≠ s.session.passkey ∧ t.session.isAuthenticated = false) ∨
    t.session.isAuthenticated = s.session.isAuthenticated := by
  obtain ⟨hright, hwrong, hlength⟩ := authSetsTheLevelByTheKey m s
  cases o with
  | badLength p =>
    cases (hlength p).symm.trans h
    exact .inr (.inr rfl)
  | fields key =>
    by_cases hkey : key = s.session.passkey
    · subst hkey
      cases hright.symm.trans h
      exact .inl ⟨rfl, rfl⟩
    · cases (hwrong key hkey).symm.trans h
      exact .inr (.inl ⟨key, rfl, hkey, rfl⟩)

/-- The level after any request: as before, or set by an AUTH. -/
theorem exec_request_level (hop : i.opcode = some op) (h : exec i s = .next t) :
    t.session.isAuthenticated = s.session.isAuthenticated ∨
    (t.session.isAuthenticated = true ∧ ∃ m, i = .auth m (.fields s.session.passkey)) ∨
    (t.session.isAuthenticated = false ∧ ∃ m key, key ≠ s.session.passkey ∧ i = .auth m (.fields key)) := by
  by_cases h6 : op = 0x6#4
  · subst h6
    obtain ⟨m, o, rfl⟩ := auth_of_opcode hop
    rcases exec_auth_level h with ⟨rfl, ht⟩ | ⟨key, rfl, hkey, ht⟩ | ht
    · exact .inr (.inl ⟨ht, m, rfl⟩)
    · exact .inr (.inr ⟨ht, m, key, hkey, rfl⟩)
    · exact .inl ht
  · exact .inl ((exec_request_frame hop h).isAuthenticated h6)

/-- The requests that change device memory (20_memory.md section 3). -/
theorem exec_request_changes_memory (hop : i.opcode = some op) (h : exec i s = .next t)
    (hne : t.env.memory ≠ s.env.memory) :
    s.session.isAuthenticated = true ∧
    ((∃ m f, i = .write m (.fields f)) ∨ (s.cfg.bypass = true ∧ ∃ m p, i = .bypass m p)) := by
  by_cases h4 : op = 0x4#4
  · subst h4
    obtain ⟨m, o, rfl⟩ := write_of_opcode hop
    rcases exec_write_memory h with hmem | ⟨ha, f, rfl, -⟩
    · exact absurd hmem hne
    · exact ⟨ha, .inl ⟨m, f, rfl⟩⟩
  by_cases h8 : op = 0x8#4
  · subst h8
    obtain ⟨m, p, rfl⟩ := bypass_of_opcode hop
    rcases exec_bypass_env h with henv | ⟨ha, hb, -⟩
    · exact absurd (congrArg Environment.memory henv) hne
    · exact ⟨ha, .inr ⟨hb, m, p, rfl⟩⟩
  · exact absurd ((exec_request_frame hop h).memory h4 h8) hne

end

/-- Settles O49: neither `RESET` nor own work turns logging on, and of the requests only LOGSTART. -/
theorem onlyLogstartTurnsLoggingOn : Obligations.OnlyLogstartTurnsLoggingOn := by
  intro s t h hoff hon
  rcases step_effect h with ⟨rest, -, rfl⟩ | ⟨rest, hown⟩ | ⟨rest, i, op, u, hconsumes, hop, hu, hown⟩
  · cases hon
  · exact absurd (hoff.symm.trans (hown.logging hon)) Bool.false_ne_true
  · obtain ⟨ha, m, rfl⟩ := exec_request_starts_logging hop hu hoff (hown.logging hon)
    exact ⟨ha, m, hconsumes⟩

/-- Settles O50: own work leaves the level, `RESET` clears it, and of the requests only AUTH sets it. -/
theorem onlyAuthAndResetChangeTheLevel : Obligations.OnlyAuthAndResetChangeTheLevel := by
  intro s t h
  have same (hst : t.session.isAuthenticated = s.session.isAuthenticated) {P Q : Prop} :
      (s.session.isAuthenticated = false → t.session.isAuthenticated = true → P) ∧
      (s.session.isAuthenticated = true → t.session.isAuthenticated = false → Q) := by
    rw [hst]
    exact ⟨fun h0 h1 => absurd (h0.symm.trans h1) Bool.false_ne_true,
      fun h1 h0 => absurd (h0.symm.trans h1) Bool.false_ne_true⟩
  rcases step_effect h with ⟨rest, hin, rfl⟩ | ⟨rest, hown⟩ | ⟨rest, i, op, u, hconsumes, hop, hu, hown⟩
  · exact ⟨fun _ ht => (by cases ht), fun _ _ => .inl ⟨rest, hin⟩⟩
  · exact same hown.isAuthenticated
  · rcases exec_request_level hop hu with hlevel | ⟨hlevel, m, rfl⟩ | ⟨hlevel, m, key, hkey, rfl⟩
    · exact same (hown.isAuthenticated.trans hlevel)
    · have ht := hown.isAuthenticated.trans hlevel
      exact ⟨fun _ _ => ⟨m, hconsumes⟩, fun _ h0 => absurd (h0.symm.trans ht) Bool.false_ne_true⟩
    · have ht := hown.isAuthenticated.trans hlevel
      exact ⟨fun _ h1 => absurd (ht.symm.trans h1) Bool.false_ne_true,
        fun _ _ => .inr ⟨m, key, hkey, hconsumes⟩⟩

/-- Settles O53: the gate refuses all requests but AUTH, which makes no access; own work is quiet. -/
theorem unauthenticatedPeerStoresNothing : Obligations.UnauthenticatedPeerStoresNothing := by
  intro s t ha h
  have quiet (u : State) (hmem : u.env.memory = s.env.memory)
      (hbypass : u.env.bypass = s.env.bypass) (hports : u.trace.ports = []) (hown : OwnWork u t) :
      t.env.memory = s.env.memory ∧ t.env.bypass = s.env.bypass ∧
      (∀ a w data ok, PortEvent.memWrite a w data ok ∉ t.trace.ports) ∧
      ∀ p answer, PortEvent.bypassCall p answer ∉ t.trace.ports := by
    have hquiet : ∀ p ∈ t.trace.ports, p.quiet = true := fun p hp =>
      (hown.ports p hp).resolve_left (by rw [hports]; exact List.not_mem_nil)
    exact ⟨hown.memory.trans hmem, hown.bypass.trans hbypass,
      fun _ _ _ _ hp => Bool.false_ne_true (hquiet _ hp), fun _ _ hp => Bool.false_ne_true (hquiet _ hp)⟩
  rcases step_effect h with ⟨rest, -, rfl⟩ | ⟨rest, hown⟩ | ⟨rest, i, op, u, -, hop, hu, hown⟩
  · exact quiet (resetEvent (s.begin rest)) rfl rfl rfl (.refl _)
  · exact quiet (s.begin rest) rfl rfl rfl hown
  · by_cases h6 : op = 0x6#4
    · subst h6
      have hframe := exec_request_frame hop hu
      exact quiet u (hframe.memory (by decide) (by decide)) (hframe.bypass (by decide))
        (hframe.ports (by decide) (by decide)) hown
    · rw [exec_request_unauthenticated (s := s.begin rest) hop h6 ha hu] at hown
      exact quiet ((s.begin rest).absorb .auth) rfl rfl rfl hown

/-- Settles O54: `RESET` and own work leave device memory, and so does every other request. -/
theorem onlyWriteAndBypassChangeMemory : Obligations.OnlyWriteAndBypassChangeMemory := by
  intro s t h hne
  rcases step_effect h with ⟨rest, -, rfl⟩ | ⟨rest, hown⟩ | ⟨rest, i, op, u, hconsumes, hop, hu, hown⟩
  · exact absurd rfl hne
  · exact absurd hown.memory hne
  · rw [hown.memory] at hne
    obtain ⟨ha, ⟨m, f, rfl⟩ | ⟨hb, m, p, rfl⟩⟩ := exec_request_changes_memory hop hu hne
    · exact ⟨ha, .inl ⟨m, f, hconsumes⟩⟩
    · exact ⟨ha, .inr ⟨hb, m, p, hconsumes⟩⟩

end Sys2Proof.Machine
end

section
/-! PROOFS. Ticks alone (95_test_vectors.md S6, 70_reset_and_hazards.md section 1), and the passkey, which no
instruction but AUTH reads (10_state.md section 5). -/

namespace Sys2Proof.Machine

/-! ### Directly after reset -/

/-- With nothing received, no reply pending and logging off, a tick does nothing. -/
theorem tick_of_idle {s : State} (e : Half) (hr : s.rx.state = .idle) (hp : s.session.isReplyPending = false)
    (hl : s.session.isLoggingEnabled = false) : tick e s = .next s := by
  have htimeout : rxTimeout e s = s := if_neg (by simp [hr])
  have hconsume : consume s = .next s := consume_of_not_complete (by simp [hr])
  rw [tick, htimeout, hconsume, andThen_next, exec_reply_of_not_pending (.inl hp), andThen_next,
    watchdog_of_not_logging e hl, sampler_of_not_logging hl]

/-- Settles O3: each event on the state after reset. -/
theorem nothingHappensAfterResetUntilADelimiter : Obligations.NothingHappensAfterResetUntilADelimiter := by
  refine fun c env e b => ⟨rfl, rfl, rfl, tick_of_idle e rfl rfl rfl, fun hb => ?_⟩
  rw [rxPush_of_idle b rfl, if_neg hb]

/-! ### Ticks alone -/

/-- A tick with no frame to consume, while logging or not (45_log_scheduler.md R241). -/
theorem tick_logging {e : Half} {s t : State} (hr : s.rx.state ≠ .complete) (h : tick e s = .next t) :
    t.rx.state ≠ .complete ∧ t.cfg = s.cfg ∧ t.env.inputs = s.env.inputs ∧
    t.session.logWatchdogLimit = s.session.logWatchdogLimit ∧
    (s.session.isLoggingEnabled = false → t.session.isLoggingEnabled = false) ∧
    (s.session.isLoggingEnabled = true →
      t.session.logTimeoutCounter = s.session.logTimeoutCounter + e.toNat ∧
      t.session.isLoggingEnabled =
        decide (s.session.logTimeoutCounter + e.toNat < s.session.logWatchdogLimit.toNat)) := by
  obtain ⟨s3, hframe, hsampler⟩ := tick_of_not_complete hr h
  obtain ⟨hcfg, -, hsession, -, henv, -, -, hkeeps⟩ := rxTimeout_frame e s
  obtain ⟨tcfg, trx, -, tenv, tsession⟩ := sampler_leaves hsampler
  have h3 : s3.session =
      { s.session with slaveSeq := s3.session.slaveSeq, isReplyPending := s3.session.isReplyPending } := by
    rw [hframe.session, hsession]
  cases hl : s.session.isLoggingEnabled with
  | false =>
    have hl3 : s3.session.isLoggingEnabled = false := by rw [h3]; exact hl
    rw [watchdog_of_not_logging e hl3] at tcfg trx tenv tsession
    refine ⟨by rw [trx, hframe.rx]; exact hkeeps hr, tcfg.trans (hframe.cfg.trans hcfg),
      by rw [tenv, hframe.env, henv], by rw [tsession, h3], fun _ => by rw [tsession]; exact hl3,
      fun hon => absurd hon Bool.false_ne_true⟩
  | true =>
    have hl3 : s3.session.isLoggingEnabled = true := by rw [h3]; exact hl
    rw [watchdog_of_logging e hl3] at tcfg trx tenv tsession
    refine ⟨by rw [trx, hframe.rx]; exact hkeeps hr, tcfg.trans (hframe.cfg.trans hcfg),
      by rw [tenv, hframe.env, henv], by rw [tsession, h3], fun hoff => absurd hoff.symm Bool.false_ne_true,
      fun _ => by rw [tsession, h3]; exact ⟨rfl, rfl⟩⟩

/-- Logging is off already, or the ticks to come reach the limit. -/
theorem run_ticks : ∀ (es : List Half) {s : State}, configOk s.cfg = true → s.env.inputs = es.map .tick →
    s.rx.state ≠ .complete →
    (s.session.isLoggingEnabled = false ∨
      s.session.logTimeoutCounter < s.session.logWatchdogLimit.toNat ∧
      s.session.logWatchdogLimit.toNat ≤ s.session.logTimeoutCounter + (es.map BitVec.toNat).sum) →
    ∃ t, Host.Core.run Sys2Proof.core es.length s = .next t ∧ t.session.isLoggingEnabled = false
  | [], s, _, _, _, h => by
    refine ⟨s, rfl, h.resolve_right fun ⟨hlt, hle⟩ => ?_⟩
    simp only [List.map_nil, List.sum_nil, Nat.add_zero] at hle
    omega
  | e :: es, s, hc, hin, hr, h => by
    obtain ⟨u, hu⟩ := tick_next e (s.begin (es.map .tick))
    obtain ⟨ur, ucfg, uinputs, ulimit, uoff, uon⟩ := tick_logging (s := s.begin (es.map .tick)) hr hu
    have hnext : u.session.isLoggingEnabled = false ∨
        u.session.logTimeoutCounter < u.session.logWatchdogLimit.toNat ∧
        u.session.logWatchdogLimit.toNat ≤ u.session.logTimeoutCounter + (es.map BitVec.toNat).sum := by
      rcases h with h | ⟨-, hle⟩
      · exact .inl (uoff h)
      cases hl : s.session.isLoggingEnabled with
      | false => exact .inl (uoff hl)
      | true =>
        obtain ⟨ucounter, ulogging⟩ := uon hl
        rw [ulogging, ucounter, ulimit, decide_eq_false_iff_not]
        simp only [State.begin_session, List.map_cons, List.sum_cons] at hle ⊢
        omega
    obtain ⟨t, ht, hoff⟩ := run_ticks es (s := u) (by rw [ucfg]; exact hc) uinputs ur hnext
    exact ⟨t, (run_next ((step_of_event hc hin).trans hu)).trans ht, hoff⟩

/-- Settles O38: by induction on the ticks. -/
theorem ticksWithoutARequestEndLogging : Obligations.TicksWithoutARequestEndLogging :=
  fun _ es hc hin hr hlt hle => run_ticks es hc hin hr (.inr ⟨hlt, hle⟩)

/-! ### The passkey -/

/-- The state with another passkey. -/
def State.setPasskey (key : Word) (s : State) : State := { s with session := { s.session with passkey := key } }

/-- An action whose result differs in the passkey alone where its argument does. -/
def IgnoresPasskey (f : State → State) : Prop := ∀ key s, f (s.setPasskey key) = (f s).setPasskey key

/-- A handler that, besides, answers the same. -/
def Handler.IgnoresPasskey (h : Handler) : Prop :=
  ∀ key s, h (s.setPasskey key) = ((h s).1, (h s).2.setPasskey key)

theorem privileged_ignoresPasskey {h : Handler} (hh : h.IgnoresPasskey) (m : Nibble) :
    IgnoresPasskey (privileged m h) := by
  intro key s
  have hr : runHandler m h (s.setPasskey key) = (runHandler m h s).setPasskey key := by
    have hcall : h ((s.setPasskey key).setPending emptyBlock) =
        ((h (s.setPending emptyBlock)).1, (h (s.setPending emptyBlock)).2.setPasskey key) :=
      hh key (s.setPending emptyBlock)
    rw [runHandler, hcall, runHandler]
    obtain ⟨v, u⟩ := h (s.setPending emptyBlock)
    cases v <;> rfl
  cases ha : s.session.isAuthenticated
  · rw [privileged_unauthenticated ha, privileged_unauthenticated (s := s.setPasskey key) ha]
    rfl
  · rw [privileged_authenticated ha, privileged_authenticated (s := s.setPasskey key) ha, hr]

theorem handleLogstart_ignoresPasskey (p : List Byte) : (handleLogstart p).IgnoresPasskey := by
  intro key s
  by_cases hp : p = []
  · subst hp
    rw [handleLogstart_nil, handleLogstart_nil]
    cases hl : s.session.isLoggingEnabled <;> simp [State.setPasskey, hl]
  · rw [handleLogstart_of_payload _ hp, handleLogstart_of_payload _ hp]

theorem handleLogstop_ignoresPasskey : Handler.IgnoresPasskey handleLogstop := fun _ _ => rfl

theorem handleLogperiod_ignoresPasskey (o : Operands Half) : (handleLogperiod o).IgnoresPasskey := by
  intro key s
  cases o with
  | badLength p => rfl
  | fields period =>
    by_cases h : period = 0#16
    · subst h
      rfl
    · rw [handleLogperiod_of_pos _ h, handleLogperiod_of_pos _ h]
      rfl

theorem handleWrite_ignoresPasskey (o : Operands WriteFields) : (handleWrite o).IgnoresPasskey := by
  intro key s
  cases o with
  | badLength p => rfl
  | fields f =>
    by_cases hf : f.sizeByte.toNat = f.width.bytes
    · by_cases ha : accessorAnswer s = .fault
      · rw [handleWrite_of_fault hf ha, handleWrite_of_fault (s := s.setPasskey key) hf ha]
        rfl
      · rw [handleWrite_of_answer hf ha, handleWrite_of_answer (s := s.setPasskey key) hf ha]
        rfl
    · rw [handleWrite_of_mismatch hf, handleWrite_of_mismatch hf]

theorem appendEntries_ignoresPasskey (f : CfgFields) : Handler.IgnoresPasskey (appendEntries f) := by
  intro key s
  by_cases hmany : s.cfg.nTargets < s.targets.stagedCount + f.entries.length
  · rw [appendEntries_of_too_many hmany, appendEntries_of_too_many (s := s.setPasskey key) hmany]
    rfl
  have hfits := Nat.not_lt.1 hmany
  cases h : (storing f s).2 with
  | false =>
    rw [appendEntries_of_unstored hfits h, appendEntries_of_unstored (s := s.setPasskey key) hfits h]
    rfl
  | true =>
    rcases Nat.lt_or_ge s.cfg.maxPayload
      (sizeSum (storing f s).1 (s.targets.stagedCount + f.entries.length)) with hsum | hsum
    · rw [appendEntries_of_too_long hfits h hsum, appendEntries_of_too_long (s := s.setPasskey key) hfits h hsum]
      rfl
    · rw [appendEntries_of_within hfits h hsum, appendEntries_of_within (s := s.setPasskey key) hfits h hsum,
        finishCfg_eq, finishCfg_eq]
      rfl

theorem handleLogcfg_ignoresPasskey (o : Operands CfgFields) : (handleLogcfg o).IgnoresPasskey := by
  intro key s
  cases o with
  | badLength p => rfl
  | fields f =>
    rw [handleLogcfg_fields, handleLogcfg_fields]
    exact appendEntries_ignoresPasskey f key (s.setStaged _)

theorem handleDump_ignoresPasskey (o : Operands DumpFields) : (handleDump o).IgnoresPasskey := by
  intro key s
  cases o with
  | badLength p => rfl
  | fields f =>
    rcases Nat.lt_or_ge s.cfg.maxPayload f.length.toNat with h | h
    · rw [handleDump_of_too_long h, handleDump_of_too_long (s := s.setPasskey key) h]
    · rw [handleDump_of_legal h, handleDump_of_legal (s := s.setPasskey key) h]
      rfl

theorem handleBypass_ignoresPasskey (p : List Byte) : (handleBypass p).IgnoresPasskey := by
  intro key s
  cases hb : s.cfg.bypass
  · rw [handleBypass_of_none hb, handleBypass_of_none (s := s.setPasskey key) hb]
    rfl
  · cases hok : (bypassAnswer p s).success
    · rw [handleBypass_of_error hb hok, handleBypass_of_error (s := s.setPasskey key) hb hok]
      rfl
    · rw [handleBypass_of_success hb hok, handleBypass_of_success (s := s.setPasskey key) hb hok]
      rfl

theorem reservedOpcode_ignoresPasskey : IgnoresPasskey reservedOpcode := by
  intro key s
  rw [reservedOpcode_eq, reservedOpcode_eq]
  rfl

theorem readAll_setPasskey (key : Word) : ∀ (l : List (Addr × Width)) (s : State),
    readAll l (s.setPasskey key) = ((readAll l s).1, (readAll l s).2.setPasskey key)
  | [], _ => rfl
  | (a, w) :: rest, s => by
    by_cases h : accessorAnswer s = .fault
    · rw [readAll_of_fault h, readAll_of_fault (s := s.setPasskey key) h]
      rfl
    · have ih : readAll rest (afterAccess (.memRead a w (memReadResult a w (s.setPasskey key)))
            (s.setPasskey key)) =
          ((readAll rest (afterAccess (.memRead a w (memReadResult a w s)) s)).1,
            (readAll rest (afterAccess (.memRead a w (memReadResult a w s)) s)).2.setPasskey key) :=
        readAll_setPasskey key rest (afterAccess (.memRead a w (memReadResult a w s)) s)
      rw [readAll_of_answer h, readAll_of_answer (s := s.setPasskey key) h, ih]
      rfl

theorem readAndLoad_ignoresPasskey (l : List (Addr × Width)) : IgnoresPasskey (readAndLoad l) := by
  intro key s
  rw [readAndLoad, readAll_setPasskey, readAndLoad]
  obtain ⟨p, u⟩ := readAll l s
  cases p <;> rfl

theorem receive_ignoresPasskey {f g k : State → State} (hf : IgnoresPasskey f) (hg : IgnoresPasskey g)
    (hk : IgnoresPasskey k) : IgnoresPasskey (receive f g k) := by
  intro key s
  by_cases hfull : (s.rx.state = .framing ∨ s.rx.state = .escaping) ∧ s.cfg.rxCap ≤ s.rx.length
  · rw [receive_of_full hfull.1 hfull.2, receive_of_full (s := s.setPasskey key) hfull.1 hfull.2]
    exact hf key (s.rxReset.absorb .framing)
  have hl (h : s.rx.state = .framing ∨ s.rx.state = .escaping) : s.rx.length < s.cfg.rxCap :=
    Nat.not_le.1 fun hle => hfull ⟨h, hle⟩
  cases hr : s.rx.state with
  | idle => rw [receive_of_idle hr, receive_of_idle (s := s.setPasskey key) hr, hf]
  | framing =>
    rw [receive_of_framing hr (hl (.inl hr)), receive_of_framing (s := s.setPasskey key) hr (hl (.inl hr)), hg]
  | escaping =>
    rw [receive_of_escaping hr (hl (.inr hr)), receive_of_escaping (s := s.setPasskey key) hr (hl (.inr hr)), hk]
  | complete => rw [receive_of_complete hr, receive_of_complete (s := s.setPasskey key) hr]

theorem delimiterInFrame_ignoresPasskey : IgnoresPasskey delimiterInFrame := by
  intro key s
  exact (apply_ite (State.setPasskey key) (s.rx.length = 0) s.rxOpen (s.setRxState .complete)).symm

/-- T3 (43_dispatch_and_reply.md R192). -/
theorem exec_reply_setPasskey (key : Word) (s : State) :
    ∃ t, exec .reply s = .next t ∧ exec .reply (s.setPasskey key) = .next (t.setPasskey key) := by
  by_cases h : s.session.isReplyPending = true ∧ s.tx.state = .idle
  · refine ⟨_, exec_reply_of_pending h.1 h.2, (exec_reply_of_pending (s := s.setPasskey key) h.1 h.2).trans ?_⟩
    exact congrArg _ (readAndLoad_ignoresPasskey _ key (s.setReplyPending false))
  · have h' : s.session.isReplyPending = false ∨ s.tx.state ≠ .idle := by
      rcases not_and_or.1 h with h | h
      · exact .inl (Bool.eq_false_iff.2 h)
      · exact .inr h
    exact ⟨s, exec_reply_of_not_pending h', exec_reply_of_not_pending (s := s.setPasskey key) h'⟩

/-- A sample (45_log_scheduler.md R244). -/
theorem exec_telemetry_setPasskey (key : Word) (s : State) :
    ∃ t, exec .telemetry s = .next t ∧ exec .telemetry (s.setPasskey key) = .next (t.setPasskey key) := by
  by_cases h : sampleAllowed s = true
  · exact ⟨_, exec_telemetry_of_allowed h, (exec_telemetry_of_allowed (s := s.setPasskey key) h).trans
      (congrArg _ (readAndLoad_ignoresPasskey _ key s))⟩
  · exact ⟨s, exec_telemetry_of_not_allowed h, exec_telemetry_of_not_allowed (s := s.setPasskey key) h⟩

/-- Every instruction but AUTH, by its action. -/
theorem exec_setPasskey {i : Instr} (hne : i.opcode ≠ some 0x6#4) (key : Word) (s : State) :
    ∃ t, exec i s = .next t ∧ exec i (s.setPasskey key) = .next (t.setPasskey key) := by
  have of_action {f : State → State} (hf : IgnoresPasskey f) (he : ∀ s, exec i s = .next (f s)) :
      ∃ t, exec i s = .next t ∧ exec i (s.setPasskey key) = .next (t.setPasskey key) :=
    ⟨f s, he s, (he _).trans (congrArg _ (hf key s))⟩
  have hid : IgnoresPasskey id := fun _ _ => rfl
  cases i with
  | logstart m p => exact of_action (privileged_ignoresPasskey (handleLogstart_ignoresPasskey p) m) fun _ => rfl
  | logstop m p => exact of_action (privileged_ignoresPasskey handleLogstop_ignoresPasskey m) fun _ => rfl
  | logperiod m o => exact of_action (privileged_ignoresPasskey (handleLogperiod_ignoresPasskey o) m) fun _ => rfl
  | write m o => exact of_action (privileged_ignoresPasskey (handleWrite_ignoresPasskey o) m) fun _ => rfl
  | logcfg m o => exact of_action (privileged_ignoresPasskey (handleLogcfg_ignoresPasskey o) m) fun _ => rfl
  | auth m o => exact absurd rfl hne
  | dump m o => exact of_action (privileged_ignoresPasskey (handleDump_ignoresPasskey o) m) fun _ => rfl
  | bypass m p => exact of_action (privileged_ignoresPasskey (handleBypass_ignoresPasskey p) m) fun _ => rfl
  | reserved0 m p | reserved9 m p | reservedA m p | reservedB m p | reservedC m p | reservedD m p
  | reservedE m p | reservedF m p => exact of_action reservedOpcode_ignoresPasskey fun _ => rfl
  | reply => exact exec_reply_setPasskey key s
  | telemetry => exact exec_telemetry_setPasskey key s
  | fend =>
    exact of_action (receive_ignoresPasskey (fun _ _ => rfl) delimiterInFrame_ignoresPasskey fun _ _ => rfl)
      fun _ => rfl
  | fesc => exact of_action (receive_ignoresPasskey hid (fun _ _ => rfl) fun _ _ => rfl) fun _ => rfl
  | tfend => exact of_action (receive_ignoresPasskey hid (fun _ _ => rfl) fun _ _ => rfl) fun _ => rfl
  | tfesc => exact of_action (receive_ignoresPasskey hid (fun _ _ => rfl) fun _ _ => rfl) fun _ => rfl

/-- Settles O56: each action commutes with a change of the passkey. -/
theorem onlyAuthDependsOnThePasskey : Obligations.OnlyAuthDependsOnThePasskey := by
  intro i s t key hne h
  obtain ⟨u, hu, hkey⟩ := exec_setPasskey hne key s
  cases hu.symm.trans h
  exact hkey

end Sys2Proof.Machine
end

section
/-! PROOFS. The invariant of the block: each of its parts under the operations that write it, then every step. -/

namespace Sys2Proof.Machine

/-! ### The bounds between the parameters (00_scope.md R8) -/

theorem configOk_bounds {c : Config} (hc : configOk c = true) :
    c.maxPayload ≤ 65535 ∧ c.maxPayload + 2 ≤ c.txCap ∧ 1 ≤ c.logWatchdogLimit.toNat ∧
    1 ≤ c.logPeriodDefault.toNat ∧ addrFits c c.versionAddr = true := by
  simp only [configOk, Bool.and_eq_true, decide_eq_true_eq, and_assoc] at hc
  obtain ⟨-, -, hmax, htx, -, -, hlimit, hperiod, haddr, -, -⟩ := hc
  exact ⟨hmax, htx, hlimit, hperiod, haddr⟩

/-! ### ReceivedFrame -/

section
variable {c : Config} {r : Received}

/-- An emptied receiver, `Idle` or at the start of a frame. -/
theorem receivedOk_emptied (h : ReceivedOk c r) {x : RxState} (hx : x = .idle ∨ x = .framing) :
    ReceivedOk c { r with state := x, length := 0, timeoutCounter := 0 } := by
  obtain ⟨hbuffer, -, -, -, -, -⟩ := h
  refine ⟨hbuffer, Nat.zero_le _, fun _ => ⟨rfl, rfl⟩, fun hs => ?_, fun hs => ?_, Nat.zero_le _⟩ <;>
    rcases hx with rfl | rfl <;> simp at hs

/-- One byte more, where the buffer has room. -/
theorem receivedOk_taken (h : ReceivedOk c r) (hl : r.length < c.rxCap) (v : Byte) :
    ReceivedOk c (r.taken v) := by
  obtain ⟨hbuffer, -, -, -, -, htimeout⟩ := h
  exact ⟨by rw [r.taken_buffer, List.length_set, hbuffer], hl, fun hs => (by cases hs), fun hs => (by cases hs),
    fun hs => (by rcases hs with hs | hs <;> cases hs), htimeout⟩

/-- An escape begun, where the buffer has room. -/
theorem receivedOk_escaping (h : ReceivedOk c r) (hl : r.length < c.rxCap) :
    ReceivedOk c { r with state := .escaping } := by
  obtain ⟨hbuffer, hcap, -, -, -, htimeout⟩ := h
  exact ⟨hbuffer, hcap, fun hs => (by cases hs), fun hs => (by cases hs), fun _ => hl, htimeout⟩

/-- A frame of at least one byte closed, where the buffer has room. -/
theorem receivedOk_complete (h : ReceivedOk c r) (hl : r.length < c.rxCap) (hpos : 1 ≤ r.length) :
    ReceivedOk c { r with state := .complete } := by
  obtain ⟨hbuffer, hcap, -, -, -, htimeout⟩ := h
  exact ⟨hbuffer, hcap, fun hs => (by cases hs), fun _ => hpos, fun _ => hl, htimeout⟩

end

section
variable {s t : State}

theorem delimiterInFrame_receivedOk (h : ReceivedOk s.cfg s.rx) (hl : s.rx.length < s.cfg.rxCap) :
    ReceivedOk s.cfg (delimiterInFrame s).rx := by
  unfold delimiterInFrame
  split
  · exact receivedOk_emptied h (.inr rfl)
  · exact receivedOk_complete h hl (Nat.pos_of_ne_zero ‹_›)

/-- `RX_PUSH`, state by state. -/
theorem rxPush_receivedOk {b : Byte} (h : ReceivedOk s.cfg s.rx) (hpush : rxPush b s = .next t) :
    ReceivedOk s.cfg t.rx := by
  have reset : ReceivedOk s.cfg s.rxReset.rx := receivedOk_emptied h (.inl rfl)
  have opened : ReceivedOk s.cfg s.rxOpen.rx := receivedOk_emptied h (.inr rfl)
  by_cases hfull : (s.rx.state = .framing ∨ s.rx.state = .escaping) ∧ s.cfg.rxCap ≤ s.rx.length
  · cases (rxPush_of_full b hfull.1 hfull.2).symm.trans hpush
    split
    · exact opened
    · exact reset
  have room (hr : s.rx.state = .framing ∨ s.rx.state = .escaping) : s.rx.length < s.cfg.rxCap :=
    Nat.not_le.1 fun hle => hfull ⟨hr, hle⟩
  cases hr : s.rx.state with
  | idle =>
    cases (rxPush_of_idle b hr).symm.trans hpush
    split
    · exact opened
    · exact h
  | framing =>
    have hl := room (.inl hr)
    cases (rxPush_of_framing b hr hl).symm.trans hpush
    split_ifs
    · exact delimiterInFrame_receivedOk h hl
    · exact receivedOk_escaping h hl
    · exact receivedOk_taken h hl b
  | escaping =>
    have hl := room (.inr hr)
    cases (rxPush_of_escaping b hr hl).symm.trans hpush
    split_ifs
    · exact receivedOk_taken h hl 0xC0#8
    · exact receivedOk_taken h hl 0xDB#8
    · exact reset
  | complete =>
    cases (rxPush_of_complete b hr).symm.trans hpush
    exact h

/-- T1: the counter stays within `RX_TIMEOUT` (41_frame_receiver.md R150). -/
theorem rxTimeout_receivedOk (e : Half) (h : ReceivedOk s.cfg s.rx) : ReceivedOk s.cfg (rxTimeout e s).rx := by
  have ⟨hbuffer, hcap, _, hcomplete, hroom, _⟩ := h
  unfold rxTimeout
  split_ifs with hframe hlimit
  · exact receivedOk_emptied h (.inl rfl)
  · refine ⟨hbuffer, hcap, fun hs => ?_, hcomplete, hroom, Nat.not_lt.1 hlimit⟩
    rcases hframe with hr | hr <;> cases hr.symm.trans hs
  · exact h

end

/-! ### TransmitFrame -/

theorem pullBodyByte_transmitOk {c : Config} {t : Transmit} (h : TransmitOk c t) (hlt : t.cursor < t.endIndex) :
    TransmitOk c (pullBodyByte t).2 := by
  obtain ⟨hbuffer, hcursor, hcap, hloaded⟩ := h
  unfold pullBodyByte
  split
  · exact ⟨by rw [List.length_set, hbuffer], hcursor, hcap, hloaded⟩
  · exact ⟨hbuffer, hlt, hcap, hloaded⟩

/-- A pull, state by state. -/
theorem pull_transmitOk {c : Config} {t : Transmit} (h : TransmitOk c t) : TransmitOk c (pull t).2 := by
  have ⟨hbuffer, hcursor, hcap, hloaded⟩ := h
  cases ht : t.state with
  | idle => rw [pull_of_idle ht]; exact h
  | ready =>
    rw [pull_of_ready ht]
    exact ⟨hbuffer, Nat.zero_le _, hcap, fun _ => hloaded (by simp [ht])⟩
  | busy =>
    rcases Nat.lt_or_ge t.cursor t.endIndex with hlt | hge
    · rw [pull_of_busy_inside ht hlt]
      exact pullBodyByte_transmitOk h hlt
    · rw [pull_of_busy_at_end ht hge]
      exact ⟨hbuffer, hcursor, hcap, fun _ => hloaded (by simp [ht])⟩
  | closing =>
    rw [pull_of_closing ht]
    exact ⟨hbuffer, hcursor, hcap, fun hs => absurd rfl hs⟩

/-- A loaded frame of at most `MAX_PAYLOAD` bytes fits the buffer (42_frame_transmitter.md R169). -/
theorem loadFrame_transmitOk {p : List Byte} {s : State} (hc : configOk s.cfg = true) (h : TransmitOk s.cfg s.tx)
    (hp : p.length ≤ s.cfg.maxPayload) : TransmitOk s.cfg (loadFrame p s).tx := by
  obtain ⟨hbuffer, -, -, -⟩ := h
  obtain ⟨-, htx, -⟩ := configOk_bounds hc
  have hlen := loadedBody_length p s
  refine ⟨?_, Nat.zero_le _, ?_, fun _ => ⟨?_, ?_⟩⟩
  · simp only [loadFrame, overwrite, List.length_append, List.length_drop, hlen]
    omega
  all_goals
    simp only [loadFrame, hlen]
    omega

/-! ### The block, part by part -/

section
variable {s t : State}

/-- The invariant speaks of the parameters, the records and device memory alone. -/
theorem BlockOk.of_eq (h : BlockOk s) (hcfg : t.cfg = s.cfg) (hrx : t.rx = s.rx) (htx : t.tx = s.tx)
    (hsession : t.session = s.session) (htargets : t.targets = s.targets)
    (hmemory : t.env.memory = s.env.memory) : BlockOk t := by
  rw [BlockOk, hcfg, hrx, htx, hsession, htargets, hmemory]
  exact h

theorem BlockOk.samePorts (h : BlockOk s) (hp : SamePorts s t) : BlockOk t :=
  h.of_eq hp.cfg hp.rx hp.tx hp.session hp.targets hp.memory

/-- A block directly after `RESET` (10_state.md section 8). -/
theorem initial_blockOk {c : Config} {env : Environment} (hc : configOk c = true) (hm : MemoryOk c env.memory) :
    BlockOk (State.initial c env) := by
  obtain ⟨-, -, hlimit, hperiod, haddr⟩ := configOk_bounds hc
  have hzero : addrFits c 0#32 = true := by simp [addrFits]
  have hseq : (1#4 : Nibble) ≠ 0#4 := by decide
  refine ⟨hc, ?rx, ?tx, ?session, ?targets, hm⟩
  case rx =>
    exact ⟨List.length_replicate, Nat.zero_le _, fun _ => ⟨rfl, rfl⟩, fun hs => (by cases hs),
      fun hs => (by rcases hs with hs | hs <;> cases hs), Nat.zero_le _⟩
  case tx => exact ⟨List.length_replicate, Nat.le_refl _, Nat.zero_le _, fun hs => absurd rfl hs⟩
  case session =>
    have hcounter : 0 < c.logWatchdogLimit.toNat + 65535 := by omega
    have hinterval : 0 < 65535 := by decide
    exact ⟨hseq, rfl, rfl, rfl, hperiod, Nat.zero_le _, hzero, fun _ => hlimit, hcounter, fun _ => hperiod,
      hinterval⟩
  case targets =>
    refine ⟨List.length_replicate, Nat.zero_le _, Nat.zero_le _, Nat.zero_le _, fun e he => ?_⟩
    rw [List.eq_of_mem_replicate he]
    exact ⟨hzero, rfl⟩

/-- A frame of at most `MAX_PAYLOAD` bytes, read and loaded, or abandoned. -/
theorem readAndLoad_blockOk {l : List (Addr × Width)} (h : BlockOk s)
    (hl : (l.map fun r => r.2.bytes).sum ≤ s.cfg.maxPayload) : BlockOk (readAndLoad l s) := by
  obtain ⟨u, hu, e | ⟨p, hp, e⟩⟩ := readAndLoad_cases l s <;> rw [e]
  · exact (h.samePorts hu).of_eq rfl rfl rfl rfl rfl rfl
  · obtain ⟨hc, hrx, htx, ⟨-, hsession⟩, htargets, hmem⟩ := h.samePorts hu
    have hseq : nextSeq u.session.slaveSeq ≠ 0#4 := by
      intro h0
      have hval := nextSeq_toNat u.session.slaveSeq
      rw [h0] at hval
      simp at hval
    have hfits : p.length ≤ u.cfg.maxPayload := by rw [hp, hu.cfg]; exact hl
    exact ⟨hc, hrx, loadFrame_transmitOk hc htx hfits, ⟨hseq, hsession⟩, htargets, hmem⟩

theorem setReplyPending_blockOk (h : BlockOk s) (v : Bool) : BlockOk (s.setReplyPending v) := h

/-- T3: the pending block is at most `MAX_PAYLOAD` bytes (10_state.md R39). -/
theorem exec_reply_blockOk (h : BlockOk s) (he : exec .reply s = .next t) : BlockOk t := by
  obtain rfl := Host.Outcome.next.inj he
  split
  · have ⟨_, _, _, ⟨_, _, _, _, _, hlen, _⟩, _, _⟩ := h
    exact readAndLoad_blockOk (setReplyPending_blockOk h false) (by rw [blockReads_width]; exact hlen)
  · exact h

/-- A sample is allowed up to `MAX_PAYLOAD` bytes only (45_log_scheduler.md R244 (d)). -/
theorem exec_telemetry_blockOk (h : BlockOk s) (he : exec .telemetry s = .next t) : BlockOk t := by
  obtain rfl := Host.Outcome.next.inj he
  split
  · rename_i hallowed
    obtain ⟨-, -, -, hsize⟩ := sampleAllowed_iff.1 hallowed
    exact readAndLoad_blockOk h (by rw [sampleReads_width]; exact hsize)
  · exact h

/-- T4: below the limit logging goes on; one tick overshoots by at most 65534 (45_log_scheduler.md R241). -/
theorem watchdog_blockOk (e : Half) (h : BlockOk s) : BlockOk (watchdog e s) := by
  cases hl : s.session.isLoggingEnabled with
  | false => rw [watchdog_of_not_logging e hl]; exact h
  | true =>
    rw [watchdog_of_logging e hl]
    obtain ⟨hc, hrx, htx, ⟨h1, h2, h3, h4, h5, h6, h7, hcounter, -, hinterval, hbound⟩, htargets, hmem⟩ := h
    refine ⟨hc, hrx, htx, ⟨h1, h2, h3, h4, h5, h6, h7, fun hon => of_decide_eq_true hon, ?_,
      fun _ => hinterval hl, hbound⟩, htargets, hmem⟩
    have he := e.isLt
    have hlt := hcounter hl
    dsimp only
    omega

/-- The sampler's counter within the period, while logging (45_log_scheduler.md R243). -/
theorem setIntervalCounter_blockOk {n : Nat} (h : BlockOk s) (hn : n < s.session.logIntervalPeriod.toNat) :
    BlockOk (s.setIntervalCounter n) := by
  obtain ⟨hc, hrx, htx, ⟨h1, h2, h3, h4, h5, h6, h7, h8, h9, -, -⟩, htargets, hmem⟩ := h
  have hperiod := s.session.logIntervalPeriod.isLt
  exact ⟨hc, hrx, htx, ⟨h1, h2, h3, h4, h5, h6, h7, h8, h9, fun _ => hn, by
    rw [State.setIntervalCounter_session]
    dsimp only
    omega⟩, htargets, hmem⟩

/-- T5 (45_log_scheduler.md R243). -/
theorem sampler_blockOk {e : Half} (h : BlockOk s) (he : sampler e s = .next t) : BlockOk t := by
  unfold sampler at he
  split_ifs at he with hl hdue
  · have ⟨_, _, _, ⟨_, _, _, _, hperiod, _⟩, _, _⟩ := h
    exact exec_telemetry_blockOk (setIntervalCounter_blockOk h hperiod) he
  · cases he
    exact setIntervalCounter_blockOk h (Nat.not_le.1 hdue)
  · cases he
    exact h

theorem rxTimeout_blockOk (e : Half) (h : BlockOk s) : BlockOk (rxTimeout e s) := by
  obtain ⟨hcfg, htx, hsession, htargets, henv, -, -, -⟩ := rxTimeout_frame e s
  obtain ⟨hc, hrx, hrest⟩ := h
  rw [BlockOk, hcfg, htx, hsession, htargets, henv]
  exact ⟨hc, rxTimeout_receivedOk e hrx, hrest⟩

theorem rxReset_blockOk (h : BlockOk s) : BlockOk s.rxReset := by
  obtain ⟨hc, hrx, hrest⟩ := h
  exact ⟨hc, receivedOk_emptied hrx (.inl rfl), hrest⟩

end

/-! ### Requests: the block they name -/

/-- A block that a reply may be read from (10_state.md R39). -/
def Block.legal (c : Config) (b : Block) : Prop := b.length.toNat ≤ c.maxPayload ∧ addrFits c b.address = true

theorem emptyBlock_legal (c : Config) : emptyBlock.legal c := ⟨Nat.zero_le _, by simp [emptyBlock, addrFits]⟩

theorem capBlock_legal {c : Config} {a : Addr} (hc : configOk c = true) (ha : addrFits c a = true) (len : Half) :
    (capBlock c a len).legal c := by
  obtain ⟨hmax, -⟩ := configOk_bounds hc
  refine ⟨?_, ha⟩
  rw [capBlock, BitVec.toNat_ofNat]
  exact (Nat.mod_le _ _).trans (Nat.min_le_right _ _)

section
variable {m : Nibble} {s t : State}

/-- The block that a request names is the one its handler leaves, or the old one. -/
theorem runHandler_pending {h : Handler} (c : Config)
    (hh : (h (s.setPending emptyBlock)).2.session.pendingBlock.legal c) :
    (runHandler m h s).session.pendingBlock.legal c :=
  runHandler_rel (R := fun _ t => t.session.pendingBlock.legal c) hh (fun _ hu => hu) (fun _ hu => hu)
    (fun _ _ hu => hu)

theorem privileged_pending {h : Handler} {c : Config} (hs : s.session.pendingBlock.legal c)
    (hh : (h (s.setPending emptyBlock)).2.session.pendingBlock.legal c) :
    (privileged m h s).session.pendingBlock.legal c :=
  privileged_rel (R := fun _ t => t.session.pendingBlock.legal c) hs (fun _ => hh) (fun _ hu => hu)
    (fun _ hu => hu) (fun _ _ hu => hu)

end

/-- A handler that leaves the block it finds. -/
def Handler.KeepsPending (h : Handler) : Prop := ∀ s, (h s).2.session.pendingBlock = s.session.pendingBlock

theorem handleLogstart_keepsPending (p : List Byte) : (handleLogstart p).KeepsPending := by
  intro s
  unfold handleLogstart
  split_ifs <;> rfl

theorem handleLogperiod_keepsPending (o : Operands Half) : (handleLogperiod o).KeepsPending := by
  intro s
  cases o with
  | badLength p => rfl
  | fields period =>
    simp only [handleLogperiod]
    split_ifs <;> rfl

theorem handleWrite_keepsPending (o : Operands WriteFields) : (handleWrite o).KeepsPending := by
  intro s
  rcases handleWrite_cases o s with h | ⟨f, -, -, ⟨-, h⟩ | ⟨-, h⟩⟩ <;> rw [h]
  all_goals
    obtain ⟨-, -, -, hsession, -⟩ := memWrite_frame f.address f.width f.data s
    rw [hsession]

theorem handleLogcfg_keepsPending (o : Operands CfgFields) : (handleLogcfg o).KeepsPending := by
  intro s
  rcases handleLogcfg_cases o s with ⟨array, -, h⟩ | ⟨array, c, n, -, -, -, -, h⟩ <;> rw [h]

section
variable {s : State} (hc : configOk s.cfg = true)
include hc

theorem handleAuth_pending (hversion : addrFits s.cfg s.session.versionInfo.address = true)
    (hs : s.session.pendingBlock.legal s.cfg) (o : Operands Word) :
    (handleAuth o s).2.session.pendingBlock.legal s.cfg := by
  cases o with
  | badLength p => exact hs
  | fields key =>
    by_cases h : key = s.session.passkey
    · rw [h, handleAuth_of_key]
      exact capBlock_legal hc hversion _
    · rw [handleAuth_of_wrong_key h]
      exact hs

omit hc in
theorem handleDump_pending (hs : s.session.pendingBlock.legal s.cfg) {o : Operands DumpFields}
    (ho : ∀ f, o = .fields f → addrFits s.cfg f.address = true) :
    (handleDump o s).2.session.pendingBlock.legal s.cfg := by
  cases o with
  | badLength p => exact hs
  | fields f =>
    rcases Nat.lt_or_ge s.cfg.maxPayload f.length.toNat with h | h
    · rw [handleDump_of_too_long h]
      exact hs
    · rw [handleDump_of_legal h]
      exact ⟨h, ho f rfl⟩

theorem handleBypass_pending (hs : s.session.pendingBlock.legal s.cfg) (p : List Byte) :
    (handleBypass p s).2.session.pendingBlock.legal s.cfg := by
  have hwrap (a : Addr) : addrFits s.cfg (wrapAddr s.cfg a 0) = true := decide_eq_true (wrapAddr_lt s.cfg a 0)
  rcases handleBypass_cases p s with ⟨-, h⟩ | ⟨-, v, b, ⟨-, rfl⟩ | ⟨-, rfl⟩, h⟩ <;> rw [h]
  · exact hs
  · exact hs
  · exact capBlock_legal hc (hwrap _) _

/-- The block after any request (10_state.md R39, R45). -/
theorem exec_request_pending {i : Instr} {op : Nibble} {t : State}
    (hversion : addrFits s.cfg s.session.versionInfo.address = true) (hs : s.session.pendingBlock.legal s.cfg)
    (hop : i.opcode = some op) (hok : i.operandsOk s.cfg = true) (h : exec i s = .next t) :
    t.session.pendingBlock.legal s.cfg := by
  have hempty : (s.setPending emptyBlock).session.pendingBlock.legal s.cfg := emptyBlock_legal _
  have keeps {h : Handler} (hk : h.KeepsPending) (m : Nibble) :
      (privileged m h s).session.pendingBlock.legal s.cfg :=
    privileged_pending hs (by rw [hk]; exact hempty)
  cases i with
  | logstart m p => cases h; exact keeps (handleLogstart_keepsPending p) m
  | logstop m p => cases h; exact keeps (h := handleLogstop) (fun _ => rfl) m
  | logperiod m o => cases h; exact keeps (handleLogperiod_keepsPending o) m
  | write m o => cases h; exact keeps (handleWrite_keepsPending o) m
  | logcfg m o => cases h; exact keeps (handleLogcfg_keepsPending o) m
  | auth m o =>
    cases h
    exact runHandler_pending _ (handleAuth_pending (s := s.setPending emptyBlock) hc hversion hempty o)
  | dump m o =>
    cases h
    exact privileged_pending hs (handleDump_pending (s := s.setPending emptyBlock) hempty
      fun f ho => by subst ho; exact hok)
  | bypass m p =>
    cases h
    exact privileged_pending hs (handleBypass_pending (s := s.setPending emptyBlock) hc hempty p)
  | reserved0 m p | reserved9 m p | reservedA m p | reservedB m p | reservedC m p | reservedD m p
  | reservedE m p | reservedF m p => cases h; rw [reservedOpcode_eq]; exact hs
  | reply | telemetry | fend | fesc | tfend | tfesc => cases hop

end

/-! ### Requests: the counters of the Session -/

/-- The sampler's counter cleared, or left together with the logging flag. -/
def ClearsCounter (s t : State) : Prop :=
  t.session.logIntervalCounter = 0 ∨
  (t.session.logIntervalCounter = s.session.logIntervalCounter ∧
    t.session.isLoggingEnabled = s.session.isLoggingEnabled)

/-- A period other than 0 set with logging off, or both left. -/
def SetsPeriod (s t : State) : Prop :=
  (t.session.logIntervalPeriod ≠ 0#16 ∧ t.session.isLoggingEnabled = false) ∨
  (t.session.logIntervalPeriod = s.session.logIntervalPeriod ∧
    t.session.isLoggingEnabled = s.session.isLoggingEnabled)

section
variable {m : Nibble} {s t : State}

/-- LOGSTART clears the sampler's counter when it turns logging on (44_commands.md R210). -/
theorem exec_logstart_counter {p : List Byte} (h : exec (.logstart m p) s = .next t) : ClearsCounter s t := by
  obtain rfl := Host.Outcome.next.inj h
  refine privileged_rel (R := ClearsCounter) (.inr ⟨rfl, rfl⟩) (fun _ => ?_) (fun _ hu => hu) (fun _ hu => hu)
    (fun _ _ hu => hu)
  unfold handleLogstart
  split_ifs
  · exact .inr ⟨rfl, rfl⟩
  · exact .inr ⟨rfl, rfl⟩
  · exact .inl rfl

/-- LOGPERIOD turns logging off with every period it sets, none of them 0 (44_commands.md R212). -/
theorem exec_logperiod_period {o : Operands Half} (h : exec (.logperiod m o) s = .next t) : SetsPeriod s t := by
  obtain rfl := Host.Outcome.next.inj h
  refine privileged_rel (R := SetsPeriod) (.inr ⟨rfl, rfl⟩) (fun _ => ?_) (fun _ hu => hu) (fun _ hu => hu)
    (fun _ _ hu => hu)
  cases o with
  | badLength p => exact .inr ⟨rfl, rfl⟩
  | fields period =>
    by_cases hp : period = 0#16
    · subst hp
      exact .inr ⟨rfl, rfl⟩
    · rw [handleLogperiod_of_pos _ hp]
      exact .inl ⟨hp, rfl⟩

end

section
variable {i : Instr} {op : Nibble} {s t : State} (hop : i.opcode = some op) (h : exec i s = .next t)
include hop h

/-- An accepted request clears the watchdog counter; an Error leaves it, and turns no logging on. -/
theorem exec_request_watchdog :
    t.session.logTimeoutCounter = 0 ∨
    (t.session.logTimeoutCounter = s.session.logTimeoutCounter ∧
      (t.session.isLoggingEnabled = true → s.session.isLoggingEnabled = true)) := by
  obtain ⟨-, -, ⟨-, -, hzero⟩ | ⟨cls, habsorbed, -, hcounter, -⟩⟩ := exec_request_outcome hop h
  · exact .inl hzero
  refine .inr ⟨hcounter, fun hon => ?_⟩
  by_cases h1 : op = 0x1#4
  · have herror : t.trace.absorbed ≠ s.trace.absorbed := by simp [habsorbed]
    obtain ⟨-, -, -, -, -, -, -, -, -, -, hlogging⟩ :=
      errorsChangeNothingButTheFourExceptions i op s t hop h herror
    exact (hlogging (by rw [h1]; decide)).symm.trans hon
  · exact (exec_request_frame hop h).logging h1 hon

/-- The sampler's two fields: cleared and kept, or set with logging off, or both as they were. -/
theorem exec_request_sampler :
    (t.session.logIntervalCounter = 0 ∧ t.session.logIntervalPeriod = s.session.logIntervalPeriod) ∨
    (t.session.logIntervalCounter = s.session.logIntervalCounter ∧
      ((t.session.logIntervalPeriod ≠ 0#16 ∧ t.session.isLoggingEnabled = false) ∨
        (t.session.logIntervalPeriod = s.session.logIntervalPeriod ∧
          (t.session.isLoggingEnabled = true → s.session.isLoggingEnabled = true)))) := by
  have hframe := exec_request_frame hop h
  by_cases h1 : op = 0x1#4
  · subst h1
    have hperiod := hframe.logIntervalPeriod (by decide)
    obtain ⟨m, p, rfl⟩ := logstart_of_opcode hop
    rcases exec_logstart_counter h with hzero | ⟨hsame, hlogging⟩
    · exact .inl ⟨hzero, hperiod⟩
    · exact .inr ⟨hsame, .inr ⟨hperiod, fun hon => hlogging ▸ hon⟩⟩
  refine .inr ⟨hframe.logIntervalCounter h1, ?_⟩
  by_cases h3 : op = 0x3#4
  · subst h3
    obtain ⟨m, o, rfl⟩ : ∃ m o, i = .logperiod m o := by
      cases i with
      | logperiod m o => exact ⟨m, o, rfl⟩
      | _ => cases hop
    exact Or.imp_right (fun ⟨hperiod, hlogging⟩ => ⟨hperiod, fun hon => hlogging ▸ hon⟩)
      (exec_logperiod_period h)
  · exact .inr ⟨hframe.logIntervalPeriod h3, hframe.logging h1⟩

/-- The Session after any request. -/
theorem exec_request_sessionOk (hc : configOk s.cfg = true) (hs : SessionOk s.cfg s.session)
    (hok : i.operandsOk s.cfg = true) : SessionOk s.cfg t.session := by
  obtain ⟨-, -, hlimit, -, haddr⟩ := configOk_bounds hc
  obtain ⟨hseq, hkey, hwatchdog, hversion, hperiod, hlen, hfits, hcounter, hcounter', hinterval, hinterval'⟩ := hs
  have hframe := exec_request_frame hop h
  have hpending : t.session.pendingBlock.legal s.cfg :=
    exec_request_pending hc (by rw [hversion]; exact haddr) ⟨hlen, hfits⟩ hop hok h
  have hlimit' : 1 ≤ t.session.logWatchdogLimit.toNat := by rw [hframe.logWatchdogLimit, hwatchdog]; exact hlimit
  refine ⟨hframe.slaveSeq ▸ hseq, hframe.passkey.trans hkey, hframe.logWatchdogLimit.trans hwatchdog,
    hframe.versionInfo.trans hversion, ?period, hpending.1, hpending.2, ?counter, ?counter', ?interval,
    ?interval'⟩
  case period =>
    rcases exec_request_sampler hop h with ⟨-, hp⟩ | ⟨-, ⟨hp, -⟩ | ⟨hp, -⟩⟩
    · rw [hp]; exact hperiod
    · exact Nat.pos_of_ne_zero fun h0 => hp (BitVec.eq_of_toNat_eq h0)
    · rw [hp]; exact hperiod
  case counter =>
    intro hon
    rcases exec_request_watchdog hop h with hzero | ⟨hsame, hlogging⟩
    · omega
    · rw [hsame, hframe.logWatchdogLimit]
      exact hcounter (hlogging hon)
  case counter' =>
    rcases exec_request_watchdog hop h with hzero | ⟨hsame, -⟩
    · omega
    · rw [hsame, hframe.logWatchdogLimit]
      exact hcounter'
  case interval =>
    intro hon
    rcases exec_request_sampler hop h with ⟨hzero, hp⟩ | ⟨hsame, ⟨-, hoff⟩ | ⟨hp, hlogging⟩⟩
    · rw [hzero, hp]; exact hperiod
    · exact absurd (hoff.symm.trans hon) Bool.false_ne_true
    · rw [hsame, hp]; exact hinterval (hlogging hon)
  case interval' =>
    rcases exec_request_sampler hop h with ⟨hzero, -⟩ | ⟨hsame, -⟩
    · omega
    · rw [hsame]; exact hinterval'

end

/-! ### Requests: the targets and device memory -/

/-- What LOGCFG does to the array: nothing, or it stores the entries of the payload (44_commands.md R220). -/
theorem appendEntries_entries (f : CfgFields) (s : State) :
    (appendEntries f s).2.targets.entries = s.targets.entries ∨
    (appendEntries f s).2.targets.entries = (storing f s).1 := by
  rcases Nat.lt_or_ge s.cfg.nTargets (s.targets.stagedCount + f.entries.length) with hmany | hfits
  · rw [appendEntries_of_too_many hmany]
    exact .inl rfl
  refine .inr ?_
  cases h : (storing f s).2 with
  | false =>
    rw [appendEntries_of_unstored hfits h]
    rfl
  | true =>
    rcases Nat.lt_or_ge s.cfg.maxPayload
      (sizeSum (storing f s).1 (s.targets.stagedCount + f.entries.length)) with hsum | hsum
    · rw [appendEntries_of_too_long hfits h hsum]
      rfl
    · rw [appendEntries_of_within hfits h hsum, finishCfg_eq]

/-- Every entry of the array stays legal (10_state.md R41, R45). -/
theorem handleLogcfg_entries_legal {o : Operands CfgFields} {s : State}
    (ho : ∀ f, o = .fields f → ∀ e ∈ f.entries, addrFits s.cfg e.address = true)
    (hs : ∀ e ∈ s.targets.entries, addrFits s.cfg e.address = true ∧ sizeAllowed s.cfg e.size = true) :
    ∀ e ∈ (handleLogcfg o s).2.targets.entries,
      addrFits s.cfg e.address = true ∧ sizeAllowed s.cfg e.size = true := by
  cases o with
  | badLength p => exact hs
  | fields f =>
    rw [handleLogcfg_fields]
    rcases appendEntries_entries f (s.setStaged (if f.flags.getLsbD 4 then 0 else s.targets.stagedCount))
      with h | h <;> rw [h]
    · exact hs
    · exact storeEntries_mem s.cfg f.entries _ _ (ho f rfl) hs

theorem handleLogcfg_targetsOk {o : Operands CfgFields} {s : State}
    (ho : ∀ f, o = .fields f → ∀ e ∈ f.entries, addrFits s.cfg e.address = true)
    (hs : TargetsOk s.cfg s.targets) : TargetsOk s.cfg (handleLogcfg o s).2.targets := by
  obtain ⟨hlength, hcommitted, -, -, hentries⟩ := hs
  have hlegal := handleLogcfg_entries_legal ho hentries
  rcases handleLogcfg_cases o s with ⟨array, harray, h⟩ | ⟨array, c, n, harray, hn, hsum, hcn, h⟩ <;>
    rw [h] at hlegal ⊢
  · exact ⟨harray.trans hlength, Nat.zero_le _, Nat.zero_le _, Nat.zero_le _, hlegal⟩
  · refine ⟨harray.trans hlength, ?_, hn, hsum, hlegal⟩
    rcases hcn with rfl | rfl
    · exact hcommitted
    · exact hn

section
variable {i : Instr} {op : Nibble} {s t : State} (hop : i.opcode = some op) (h : exec i s = .next t)
include hop h

/-- The targets after any request. -/
theorem exec_request_targetsOk (hs : TargetsOk s.cfg s.targets) (hok : i.operandsOk s.cfg = true) :
    TargetsOk s.cfg t.targets := by
  by_cases h5 : op = 0x5#4
  · subst h5
    obtain ⟨m, o, rfl⟩ : ∃ m o, i = .logcfg m o := by
      cases i with
      | logcfg m o => exact ⟨m, o, rfl⟩
      | _ => cases hop
    cases h
    refine privileged_rel (R := fun s t => TargetsOk s.cfg t.targets) hs (fun _ => ?_) (fun _ hu => hu)
      (fun _ hu => hu) (fun _ _ hu => hu)
    refine handleLogcfg_targetsOk (s := s.setPending emptyBlock) (fun f hf e he => ?_) hs
    subst hf
    exact List.all_eq_true.1 hok e he
  · rw [(exec_request_frame hop h).targets h5]
    exact hs

/-- Device memory after any request. -/
theorem exec_request_memoryOk (hs : MemoryOk s.cfg s.env.memory) : MemoryOk s.cfg t.env.memory := by
  by_cases hsame : t.env.memory = s.env.memory
  · rw [hsame]
    exact hs
  obtain ⟨hwf, hfits⟩ := hs
  obtain ⟨-, ⟨m, f, rfl⟩ | ⟨-, m, p, rfl⟩⟩ := exec_request_changes_memory hop h hsame
  · obtain hmem | ⟨-, g, -, hmem⟩ := exec_write_memory h
    · exact absurd hmem hsame
    · rw [hmem]
      exact ⟨memPutBytes_wf s.cfg g.address g.data 0 hwf, memPutBytes_fits s.cfg g.address g.data 0 hfits⟩
  · obtain henv | ⟨-, -, hmem⟩ := exec_bypass_env h
    · exact absurd (congrArg Environment.memory henv) hsame
    · rw [hmem]
      exact ⟨memPutCells_wf s.cfg _ hwf, memPutCells_fits s.cfg _ hfits⟩

/-- Every request that the decoder answers keeps the invariant. -/
theorem exec_request_blockOk (hs : BlockOk s) (hok : i.operandsOk s.cfg = true) : BlockOk t := by
  obtain ⟨hc, hrx, htx, hsession, htargets, hmem⟩ := hs
  have hframe := exec_request_frame hop h
  rw [BlockOk, hframe.cfg, hframe.rx, hframe.tx]
  exact ⟨hc, hrx, htx, exec_request_sessionOk hop h hc hsession hok, exec_request_targetsOk hop h htargets hok,
    exec_request_memoryOk hop h hmem⟩

end

/-! ### Every step -/

section
variable {s t : State}

/-- T2 (43_dispatch_and_reply.md R181): the decoder answers only operands that fit. -/
theorem consume_blockOk (hs : BlockOk s) (h : consume s = .next t) : BlockOk t := by
  rcases consume_cases h with ⟨-, rfl⟩ | ⟨-, rfl⟩ | ⟨i, u, -, hd, hu, rfl⟩
  · exact hs
  · exact rxReset_blockOk (s := dropBody s) hs
  · obtain ⟨seq, p, -, -, -, rfl⟩ := decode_body_ok hd
    obtain ⟨hop, -, -, hok, -⟩ := decodeRequest_reads s.cfg seq p
    exact rxReset_blockOk (exec_request_blockOk hop hu hs hok)

theorem tick_blockOk {e : Half} (hs : BlockOk s) (h : tick e s = .next t) : BlockOk t := by
  obtain ⟨s2, s3, hconsume, hreply, hsampler⟩ := tick_cases h
  exact sampler_blockOk
    (watchdog_blockOk e (exec_reply_blockOk (consume_blockOk (rxTimeout_blockOk e hs) hconsume) hreply)) hsampler

theorem rxPush_blockOk {b : Byte} (hs : BlockOk s) (h : rxPush b s = .next t) : BlockOk t := by
  obtain ⟨hc, hrx, hrest⟩ := hs
  have hrx' := rxPush_receivedOk hrx h
  obtain ⟨rx, errors, -, rfl⟩ := rxPush_touches h
  exact ⟨hc, hrx', hrest⟩

theorem txPull_blockOk (hs : BlockOk s) : BlockOk (txPull s) := by
  obtain ⟨hc, hrx, htx, hrest⟩ := hs
  exact ⟨hc, hrx, pull_transmitOk htx, hrest⟩

end

/-- Settles O48: event by event. -/
theorem everyStepKeepsTheInvariant : Obligations.EveryStepKeepsTheInvariant := by
  intro s t hs h
  have hbegin (rest : List Event) : BlockOk (s.begin rest) := hs
  obtain ⟨hc, ⟨-, rfl⟩ | ⟨rest, -, rfl⟩ | ⟨b, rest, -, hpush⟩ | ⟨rest, -, rfl⟩ | ⟨e, rest, -, htick⟩⟩ :=
    step_cases h
  · exact hbegin []
  · have ⟨_, _, _, _, _, hmem⟩ := hs
    exact initial_blockOk hc hmem
  · exact rxPush_blockOk (hbegin rest) hpush
  · exact txPull_blockOk (hbegin rest)
  · exact tick_blockOk (hbegin rest) htick

/-- Settles O47: the reference parameters are legal, and nothing is in memory. -/
theorem resetMeetsTheInvariant : Obligations.ResetMeetsTheInvariant :=
  initial_blockOk (by decide +kernel) ⟨rfl, fun _ h => absurd h List.not_mem_nil⟩

end Sys2Proof.Machine
end
